-- ==== Sys2Proof/Word.lean ====
section
/-! DEFINITION. The widths of the spec's values (00_scope.md rule R11): a word is 32 bits, a byte 8 bits, and the
length counter 64 bits. No value is signed. -/

namespace Sys2Proof

/-- A byte: an 8-bit unsigned value (R11). -/
abbrev Byte := BitVec 8

/-- A word: a 32-bit unsigned value (R11). -/
abbrev Word := BitVec 32

/-- The width of the length counter L and of the length field L8 (R22, R71). -/
abbrev DWord := BitVec 64

end Sys2Proof
end

