-- ==== Sys2Proof/Config.lean ====
section
/-! DEFINITION. What the platform fixes: the base address of the register window, the one parameter the spec leaves
open for the engine (00_scope.md rule R10, 92_eei_decisions.md D30). It is a constant with no body, so nothing can
be proved of its value but its alignment. -/

namespace Sys2Proof.Config

/-- Which 64-byte slot of the host's address space holds the register window (D30; log entry 4). -/
opaque engineSlot : Nat

/-- ENGINE_BASE: the base address of the register window, 64-byte aligned (20_memory.md rule R49). -/
def engineBase : Nat := 64 * engineSlot

end Sys2Proof.Config
end

