-- ==== Sys2Proof/Syntax.lean ====
section
/-! DEFINITION. What can be executed: the five host commands and the six micro-operations, one constructor for each
row of opcode_table.json; and what the host can say on its bus: an access of the register window. -/

namespace Sys2Proof

/-- The instructions: the host commands of 30_encoding.md rule R56 and the micro-operations of rule R63. -/
inductive Instr where
  /-- NOP, opcode 0x00 (45_host_commands.md R126). -/
  | nop
  /-- START, opcode 0x01 (R127). -/
  | start
  /-- WRITE, opcode 0x02, with the input byte DATA = CMD[15:8] (R128, R57). -/
  | write (x : Byte)
  /-- FINISH, opcode 0x03 (R129). -/
  | finish
  /-- CLEAR, opcode 0x04 (R130). -/
  | clear
  /-- LOAD, seq code 1 (46_sequencer.md R146). -/
  | load
  /-- STEP, seq code 2 (R147). -/
  | step
  /-- FOLD, seq code 3 (R148). -/
  | fold
  /-- PAD_A, seq code 4 (R150). -/
  | padA
  /-- PAD_B, seq code 5 (R151). -/
  | padB
  /-- FORMAT, seq code 6 (R152). -/
  | format
deriving DecidableEq, Repr

/-- Whether an instruction is a host command (otherwise it is a micro-operation, R63). -/
def Instr.isCommand : Instr → Bool
  | .nop => true
  | .start => true
  | .write _ => true
  | .finish => true
  | .clear => true
  | .load => false
  | .step => false
  | .fold => false
  | .padA => false
  | .padB => false
  | .format => false

/-- One host access of the register window: its width in bits and its byte offset from ENGINE_BASE
(20_memory.md rules R43, R44). -/
structure Access where
  bits : Nat
  offset : Nat
deriving DecidableEq, Repr

/-- The registers the host sees (10_state.md rule R32). -/
inductive Reg where
  | cmd
  | status
  | lenLo
  | lenHi
  | stateA
  | stateB
  | stateC
  | stateD
  /-- HEX0 .. HEX7. -/
  | hex (w : Fin 8)
deriving DecidableEq, Repr

end Sys2Proof
end

