-- ==== Sys2Proof/WellFormed.lean ====
section
/-! DEFINITION. Which terms are well formed: a command word that obeys the format rules (30_encoding.md R55, R56,
R58), a bus access that the spec admits (20_memory.md R43), and an instruction (each one is: its only operand is a
byte, and every byte is legal, R57). Written apart from the decoder and the bus, so that each can be held against
the other. -/

namespace Sys2Proof

/-- Every instruction is well formed: WRITE's operand is any byte 0x00..0xFF (R57), and no other has an operand. -/
def Instr.wf : Instr → Bool
  | .nop => true
  | .start => true
  | .write _ => true
  | .finish => true
  | .clear => true
  | .load => true
  | .step => true
  | .fold => true
  | .padA => true
  | .padB => true
  | .format => true

/-- A legal command word, as a condition on its value: OPCODE = w mod 256 is one of the five, RSV = w div 65536 is
0, and DATA = (w div 256) mod 256 is 0 unless the opcode is WRITE's (R55, R56, R58). -/
def commandWordWf (w : Word) : Bool :=
  w.toNat / 65536 == 0 && w.toNat % 256 ≤ 4 && (w.toNat % 256 == 2 || w.toNat / 256 % 256 == 0)

/-- An admitted access: 32 bits, at an offset that is a multiple of 4, in 0x00..0x3C (R43). -/
def Access.wf (acc : Access) : Bool :=
  acc.bits == 32 && acc.offset % 4 == 0 && acc.offset ≤ 0x3C

end Sys2Proof
end

