-- ==== Sys2Proof/Decode.lean ====
section
/-! DEFINITION. The decoder of command words (30_encoding.md rule R59), total on every 32-bit word and rejecting by
name; the micro-operation that a seq code names (rule R63); and, after them, the encoder, written from the tables of
rules R56 and R63. -/

namespace Sys2Proof

/-- Why a code is not an instruction: the causes of ILLEGAL (60_exceptions.md rule R167), and the two seq codes
that name no micro-operation (R63). -/
inductive NotAnInstr where
  /-- RSV = CMD[31:16] is not 0 (R58). -/
  | reservedNotZero
  /-- DATA = CMD[15:8] is not 0 with an opcode other than WRITE (R58). -/
  | dataNotZero
  /-- OPCODE is in 0x05..0xFF (R56). -/
  | opcodeIllegal
  /-- seq code 0 is REST: no operation pending (R63). -/
  | restCode
  /-- seq code 7 is never used (R63). -/
  | unusedCode
deriving DecidableEq, Repr

/-- OPCODE = CMD[7:0] (R55). -/
def opcodeField (w : Word) : Byte := w.extractLsb' 0 8

/-- DATA = CMD[15:8] (R55). -/
def dataField (w : Word) : Byte := w.extractLsb' 8 8

/-- RSV = CMD[31:16] (R55). -/
def rsvField (w : Word) : BitVec 16 := w.extractLsb' 16 16

/-- The decoder of command words, in the order of rule R59. -/
def decodeCommand (w : Word) : Except NotAnInstr Instr :=
  if rsvField w ≠ 0 then .error .reservedNotZero
  else if opcodeField w = 0x02 then .ok (.write (dataField w))
  else if dataField w ≠ 0 then .error .dataNotZero
  else if opcodeField w = 0x00 then .ok .nop
  else if opcodeField w = 0x01 then .ok .start
  else if opcodeField w = 0x03 then .ok .finish
  else if opcodeField w = 0x04 then .ok .clear
  else .error .opcodeIllegal

/-- The micro-operation a 3-bit seq code names (R63). -/
def decodeMicro (code : BitVec 3) : Except NotAnInstr Instr :=
  if code = 1 then .ok .load
  else if code = 2 then .ok .step
  else if code = 3 then .ok .fold
  else if code = 4 then .ok .padA
  else if code = 5 then .ok .padB
  else if code = 6 then .ok .format
  else if code = 0 then .error .restCode
  else .error .unusedCode

/-- Where an instruction's code stands: a command word written to CMD (R55), or a code in seq (R63). -/
inductive Encoding where
  | command (w : Word)
  | micro (code : BitVec 3)
deriving DecidableEq, Repr

/-- Decoding of either kind of code. -/
def decode : Encoding → Except NotAnInstr Instr
  | .command w => decodeCommand w
  | .micro code => decodeMicro code

/-- The encoder: the command words of rule R56 (WRITE as rule R64 writes it, 0x00000002 with the byte in bits 15:8)
and the codes of rule R63. -/
def encode : Instr → Encoding
  | .nop => .command 0x00000000
  | .start => .command 0x00000001
  | .write x => .command (0x00000002 ||| (x.setWidth 32 <<< 8))
  | .finish => .command 0x00000003
  | .clear => .command 0x00000004
  | .load => .micro 1
  | .step => .micro 2
  | .fold => .micro 3
  | .padA => .micro 4
  | .padB => .micro 5
  | .format => .micro 6

/-- The match and mask of an instruction's row in opcode_table.json (R56, R63). -/
def Instr.matchMask : Instr → Nat × Nat
  | .nop => (0x00000000, 0xFFFFFFFF)
  | .start => (0x00000001, 0xFFFFFFFF)
  | .write _ => (0x00000002, 0xFFFF00FF)
  | .finish => (0x00000003, 0xFFFFFFFF)
  | .clear => (0x00000004, 0xFFFFFFFF)
  | .load => (0x1, 0x7)
  | .step => (0x2, 0x7)
  | .fold => (0x3, 0x7)
  | .padA => (0x4, 0x7)
  | .padB => (0x5, 0x7)
  | .format => (0x6, 0x7)

/-- The number a code is, its bit 0 least significant. -/
def Encoding.toNat : Encoding → Nat
  | .command w => w.toNat
  | .micro code => code.toNat

/-- The instruction whose bits, numbered as opcode_table.json numbers them, are `w`: a row of up to 8 bits is a seq
code of three bits, and any other is a 32-bit command word. -/
def decodeTableWord (nbits w : Nat) : Option Instr :=
  if nbits ≤ 8 then
    if w < 8 then (decodeMicro (BitVec.ofNat 3 w)).toOption else none
  else if w < 2 ^ 32 then (decodeCommand (BitVec.ofNat 32 w)).toOption else none

end Sys2Proof
end

