-- ==== Sys2Proof/Machine/State.lean ====
section
/-! DEFINITION. The state of the machine as plain data: every piece of state of 10_state.md (rules R15 to R29) in
`Engine`, and the two fields through which the outside world meets the engine in `State`. -/

namespace Sys2Proof.Machine

open Sys2Proof

/-- Four words: the state register file A, B, C, D (10_state.md rule R15) and the working registers a, b, c, d
(rule R18) have this shape. -/
structure Quad where
  a : Word
  b : Word
  c : Word
  d : Word
deriving DecidableEq, Repr

/-- The sequencer state seq: the micro-operation the engine performs next (R23). Code 7 is left out of the type, as
92_eei_decisions.md D33 allows (log entry 6). -/
inductive Seq where
  | rest
  | load
  | step
  | fold
  | padA
  | padB
  | format
deriving DecidableEq, Repr

/-- The finish state fin (R25). Code 3 is left out of the type (D33, log entry 6). -/
inductive FinishState where
  /-- NONE: the block in flight is a data block filled by WRITE. -/
  | none
  /-- MORE: the block in flight is the first of two padding blocks. -/
  | more
  /-- LAST: the block in flight is the last block of the padded message. -/
  | last
deriving DecidableEq, Repr

/-- The phase (R27). -/
inductive Phase where
  | idle
  | accum
  | final
  | done
deriving DecidableEq, Repr

/-- The three sticky error flags (R28): causes of a refused command. -/
inductive ErrorBit where
  | opc
  | seq
  | busy
deriving DecidableEq, Repr

/-- Everything the engine holds (10_state.md rules R15 to R29). -/
structure Engine where
  /-- A, B, C, D: the state register file (R15). -/
  srf : Quad
  /-- a, b, c, d: the working registers (R18). -/
  work : Quad
  /-- k[0..15]: the message schedule registers (R19). -/
  k : Vector Word 16
  /-- buf[0..63]: the block buffer (R20). -/
  buf : Vector Byte 64
  /-- cnt: the buffer count (R21). -/
  cnt : BitVec 6
  /-- L: the length counter (R22). -/
  len : DWord
  /-- seq (R23). -/
  seq : Seq
  /-- i: the step index (R24). -/
  i : BitVec 6
  /-- fin (R25). -/
  fin : FinishState
  /-- phase (R27). -/
  phase : Phase
  /-- ERR_OPC (R28). -/
  errOpc : Bool
  /-- ERR_SEQ (R28). -/
  errSeq : Bool
  /-- ERR_BUSY (R28). -/
  errBusy : Bool
  /-- HEX[0..31]: the output register (R29). -/
  hex : Vector Byte 32
deriving DecidableEq, Repr

/-- The events of the total order of 20_memory.md rule R47, and the host's wait (70_reset_and_hazards.md R189). -/
inductive Event where
  /-- BusRead of the register an access names (45_host_commands.md R133). -/
  | busRead (acc : Access)
  /-- BusWrite of a 32-bit word to the register an access names (R134). -/
  | busWrite (acc : Access) (w : Word)
  /-- The engine agent takes its turn (46_sequencer.md R145). -/
  | engine
  /-- The host holds its next access until BUSY = 0 (R189). -/
  | wait
  /-- Reset, raised by the platform (70_reset_and_hazards.md R185). -/
  | reset
deriving DecidableEq, Repr

/-- The machine: the engine, and the model's own two fields for the world outside it. -/
structure State where
  /-- The engine's state. -/
  engine : Engine
  /-- The events still to happen, first one first (R47; log entry 2). The engine does not read it. -/
  events : List Event
  /-- The words bus reads have returned to the host, newest first (R133; log entry 3). Nothing reads it. -/
  readLog : List Word
deriving DecidableEq, Repr

/-- Faults: none. The engine has no traps (60_exceptions.md R172) and no micro-operation can fail (R170); a refused
command is a next state with an error bit set (R165). Nobody raises a fault. -/
inductive Fault where
deriving DecidableEq, Repr

/-- Refusals: the events to which the spec gives no transition. -/
inductive Refusal where
  /-- Raised by exec's arm of an instruction that has no meaning yet (no arm is left so). Safe. -/
  | notModelled (mnemonic : String)
  /-- Raised by a bus read or write that 20_memory.md rule R44 does not admit: "a model must refuse it". Safe. -/
  | accessNotAdmitted (acc : Access)
  /-- Raised by a micro-operation's meaning when seq does not name it (46_sequencer.md "Enabled when"): the engine
  has no such step (R145). No step of the machine raises it. Safe. -/
  | microOpNotEnabled (code : Seq)
deriving DecidableEq, Repr

/-- Four zero words. -/
def Quad.zero : Quad := ⟨0, 0, 0, 0⟩

/-- The engine at reset: the table of 10_state.md rule R39. -/
def Engine.reset : Engine where
  srf := Quad.zero
  work := Quad.zero
  k := Vector.replicate 16 0
  buf := Vector.replicate 64 0
  cnt := 0
  len := 0
  seq := .rest
  i := 0
  fin := .none
  phase := .idle
  errOpc := false
  errSeq := false
  errBusy := false
  hex := Vector.replicate 32 0

/-- The machine right after reset: the engine as rule R39 says, no event to come and nothing read (the last two are
the model's own: log entries 2 and 3). -/
def State.reset : State where
  engine := Engine.reset
  events := []
  readLog := []

end Sys2Proof.Machine
end

