-- ==== Sys2Proof/Machine/Flags.lean ====
section
/-! DEFINITION. The status register: the codes of its fields (10_state.md R23, R25, R27) and the word the host reads
(R34); and the three sticky error flags, the engine's only flags (R28): the one operation that sets one. -/

namespace Sys2Proof.Machine

open Sys2Proof

/-- The 3-bit code of seq (R23). -/
def Seq.code : Seq → BitVec 3
  | .rest => 0
  | .load => 1
  | .step => 2
  | .fold => 3
  | .padA => 4
  | .padB => 5
  | .format => 6

/-- The sequencer state of a code; code 7 is none (R23). -/
def Seq.ofCode (n : Nat) : Option Seq :=
  if n = 0 then some .rest
  else if n = 1 then some .load
  else if n = 2 then some .step
  else if n = 3 then some .fold
  else if n = 4 then some .padA
  else if n = 5 then some .padB
  else if n = 6 then some .format
  else none

/-- The 2-bit code of fin (R25). -/
def FinishState.code : FinishState → BitVec 2
  | .none => 0
  | .more => 1
  | .last => 2

/-- The 2-bit code of the phase (R27). -/
def Phase.code : Phase → BitVec 2
  | .idle => 0
  | .accum => 1
  | .final => 2
  | .done => 3

/-- BUSY: whether the engine has a micro-operation pending, seq ≠ REST (R34, 46_sequencer.md R145). -/
def Engine.busy (e : Engine) : Bool := e.seq != .rest

/-- A one-bit field as a word. -/
def bitWord (b : Bool) : Word := (BitVec.ofBool b).setWidth 32

/-- STATUS, by the formula of rule R34: PHASE | BUSY<<2 | ERR_OPC<<3 | ERR_SEQ<<4 | ERR_BUSY<<5 | cnt<<6 | seq<<12 |
i<<15 | fin<<21. -/
def Engine.status (e : Engine) : Word :=
  e.phase.code.setWidth 32 ||| (bitWord e.busy <<< 2) ||| (bitWord e.errOpc <<< 3) ||| (bitWord e.errSeq <<< 4)
    ||| (bitWord e.errBusy <<< 5) ||| (e.cnt.setWidth 32 <<< 6) ||| (e.seq.code.setWidth 32 <<< 12)
    ||| (e.i.setWidth 32 <<< 15) ||| (e.fin.code.setWidth 32 <<< 21)

/-- raise ERR_x: sets one sticky error bit and changes nothing else (00_scope.md R13, 60_exceptions.md R169). -/
def Engine.raise (e : Engine) : ErrorBit → Engine
  | .opc => { e with errOpc := true }
  | .seq => { e with errSeq := true }
  | .busy => { e with errBusy := true }

/-- Reading an error bit by name. -/
def Engine.err (e : Engine) : ErrorBit → Bool
  | .opc => e.errOpc
  | .seq => e.errSeq
  | .busy => e.errBusy

end Sys2Proof.Machine
end

