-- ==== Sys2Proof/Machine/Adder.lean ====
section
/-! DEFINITION. The 32-bit modular adder, the rotator and the bitwise primitives (42_modular_adder.md R85 to R88). -/

namespace Sys2Proof.Machine

open Sys2Proof

/-- ADD32: addition modulo 2^32, the carry out of bit 31 discarded, no flag (R85). -/
def add32 (x y : Word) : Word := x + y

/-- The four-operand sum of a step, in the order of rule R86. -/
def add32x4 (x y z w : Word) : Word := add32 (add32 (add32 x y) z) w

/-- ROTL32: rotate left by s bits, 0 ≤ s ≤ 31 (R87). For s = 0 the right shift is by the whole width and gives 0,
so the result is x, as the rule says. -/
def rotl32 (x : Word) (s : Nat) : Word := (x <<< s) ||| (x >>> (32 - s))

/-- NOT: the complement of all 32 bits, x XOR 0xFFFFFFFF (R88). -/
def not32 (x : Word) : Word := x ^^^ 0xFFFFFFFF

end Sys2Proof.Machine
end

