-- ==== Sys2Proof/Machine/Operands.lean ====
section
/-! DEFINITION. How operands are assembled from bytes and taken apart into them: the little-endian primitives of
00_scope.md rule R13 (20_memory.md rule R40), and the concatenation of a byte sequence's parts. -/

namespace Sys2Proof.Machine

open Sys2Proof

/-- LE32(b0, b1, b2, b3) = b0 + 2^8*b1 + 2^16*b2 + 2^24*b3: four bytes as a word, the first byte least significant,
written as their concatenation (R13; 41_message_schedule.md R80). -/
def le32 (b0 b1 b2 b3 : Byte) : Word := b3 ++ (b2 ++ (b1 ++ b0))

/-- Byte q of a word, q = 0 least significant: an element of LE32bytes(w) (R13; 44_output_formatter.md R115). -/
def byteOfWord (w : Word) (q : Nat) : Byte := w.extractLsb' (8 * q) 8

/-- Byte q of a 64-bit value, q = 0 least significant: an element of LE64bytes(v) (R13; 40_padder_segmenter.md R70). -/
def byteOfDWord (v : DWord) (q : Nat) : Byte := v.extractLsb' (8 * q) 8

/-- LE64bytes(v): the eight bytes of a 64-bit value, the least significant first (R13). -/
def le64bytes (v : DWord) : List Byte := (List.range 8).map (byteOfDWord v)

end Sys2Proof.Machine
end

