-- ==== Sys2Proof/Machine/Schedule.lean ====
section
/-! DEFINITION. The message schedule (41_message_schedule.md R80). -/

namespace Sys2Proof.Machine

open Sys2Proof

/-- DECODE: word j of the schedule is the little-endian word of block bytes 4j .. 4j+3 (R80). -/
def decodeBlock (blk : Vector Byte 64) : Vector Word 16 :=
  Vector.ofFn fun j : Fin 16 =>
    le32 (blk[4 * j.val]) (blk[4 * j.val + 1]) (blk[4 * j.val + 2]) (blk[4 * j.val + 3])

end Sys2Proof.Machine
end

