-- ==== Sys2Proof/Machine/Compression.lean ====
section
/-! DEFINITION. The compression function (43_compression.md R95 to R106): the round functions, the tables T and S,
the message index, one step, the fold, and the whole-block function; and the IV (10_state.md R16). -/

namespace Sys2Proof.Machine

open Sys2Proof

/-- The IV, the value START gives the state register file (10_state.md R16). -/
def iv : Quad := ⟨0x67452301, 0xefcdab89, 0x98badcfe, 0x10325476⟩

/-- F, round 1 (R96). -/
def roundF (b c d : Word) : Word := (b &&& c) ||| (not32 b &&& d)

/-- G, round 2 (R97). -/
def roundG (b c d : Word) : Word := (b &&& d) ||| (c &&& not32 d)

/-- H, round 3 (R98). -/
def roundH (b c d : Word) : Word := b ^^^ c ^^^ d

/-- I, round 4 (R99). -/
def roundI (b c d : Word) : Word := c ^^^ (b ||| not32 d)

/-- The round function of step i: F for 0..15, G for 16..31, H for 32..47, I for 48..63 (R95). -/
def roundFn (i : BitVec 6) (b c d : Word) : Word :=
  if i.toNat < 16 then roundF b c d
  else if i.toNat < 32 then roundG b c d
  else if i.toNat < 48 then roundH b c d
  else roundI b c d

/-- T[0..15] (R102). -/
def tRound1 : List Word :=
  [0xd76aa478, 0xe8c7b756, 0x242070db, 0xc1bdceee,
   0xf57c0faf, 0x4787c62a, 0xa8304613, 0xfd469501,
   0x698098d8, 0x8b44f7af, 0xffff5bb1, 0x895cd7be,
   0x6b901122, 0xfd987193, 0xa679438e, 0x49b40821]

/-- T[16..31] (R102). -/
def tRound2 : List Word :=
  [0xf61e2562, 0xc040b340, 0x265e5a51, 0xe9b6c7aa,
   0xd62f105d, 0x02441453, 0xd8a1e681, 0xe7d3fbc8,
   0x21e1cde6, 0xc33707d6, 0xf4d50d87, 0x455a14ed,
   0xa9e3e905, 0xfcefa3f8, 0x676f02d9, 0x8d2a4c8a]

/-- T[32..47] (R102). -/
def tRound3 : List Word :=
  [0xfffa3942, 0x8771f681, 0x6d9d6122, 0xfde5380c,
   0xa4beea44, 0x4bdecfa9, 0xf6bb4b60, 0xbebfbc70,
   0x289b7ec6, 0xeaa127fa, 0xd4ef3085, 0x04881d05,
   0xd9d4d039, 0xe6db99e5, 0x1fa27cf8, 0xc4ac5665]

/-- T[48..63] (R102). -/
def tRound4 : List Word :=
  [0xf4292244, 0x432aff97, 0xab9423a7, 0xfc93a039,
   0x655b59c3, 0x8f0ccc92, 0xffeff47d, 0x85845dd1,
   0x6fa87e4f, 0xfe2ce6e0, 0xa3014314, 0x4e0811a1,
   0xf7537e82, 0xbd3af235, 0x2ad7d2bb, 0xeb86d391]

/-- T, the round-constant table, held as the literal table (R100, R102; the spec takes the values from RFC 1321). -/
def tTable : Vector Word 64 := ⟨(tRound1 ++ tRound2 ++ tRound3 ++ tRound4).toArray, rfl⟩

/-- The four rotate amounts of each round, which its steps repeat with period 4 (R101). -/
def sRound (r : Nat) : List Nat :=
  if r = 0 then [7, 12, 17, 22]
  else if r = 1 then [5, 9, 14, 20]
  else if r = 2 then [4, 11, 16, 23]
  else [6, 10, 15, 21]

/-- S, the shift-amount table: S[i] = SR[r(i)][i mod 4] (R101; the spec takes the values from RFC 1321). -/
def sTable (i : BitVec 6) : Nat := (sRound (i.toNat / 16)).getD (i.toNat % 4) 0

/-- j(i): which message word step i reads (R102). -/
def msgIndex (i : BitVec 6) : Fin 16 :=
  if i.toNat < 16 then Fin.ofNat 16 i.toNat
  else if i.toNat < 32 then Fin.ofNat 16 (5 * i.toNat + 1)
  else if i.toNat < 48 then Fin.ofNat 16 (3 * i.toNat + 5)
  else Fin.ofNat 16 (7 * i.toNat)

/-- STEP(i): one compression step. Every right-hand side reads the values from before the step (R103). -/
def stepQuad (k : Vector Word 16) (i : BitVec 6) (q : Quad) : Quad :=
  let temp := add32x4 q.a (roundFn i q.b q.c q.d) k[msgIndex i] tTable[i.toNat]
  { a := q.d, b := add32 q.b (rotl32 temp (sTable i)), c := q.b, d := q.c }

/-- The fold: each state word plus its working register (R104). -/
def foldQuad (s w : Quad) : Quad := ⟨add32 s.a w.a, add32 s.b w.b, add32 s.c w.c, add32 s.d w.d⟩

/-- The first n steps of a block: STEP(0), STEP(1), ..., STEP(n - 1), in order (R105). -/
def runSteps (k : Vector Word 16) : Nat → Quad → Quad
  | 0, q => q
  | n + 1, q => stepQuad k (BitVec.ofNat 6 n) (runSteps k n q)

/-- COMPRESS: the whole-block function (R105). -/
def compress (s : Quad) (blk : Vector Byte 64) : Quad := foldQuad s (runSteps (decodeBlock blk) 64 s)

/-- The state after a sequence of blocks, each starting from what its predecessor left (R106, 44_output_formatter.md
R118). -/
def foldCompress (s : Quad) (blks : List (Vector Byte 64)) : Quad := blks.foldl compress s

end Sys2Proof.Machine
end

