-- ==== Sys2Proof/Machine/Padder.lean ====
section
/-! DEFINITION. The padder and block segmenter: as a function of the whole message (40_padder_segmenter.md R70 to
R74), and as the operations on the block buffer by which the hardware makes the same blocks (R75; 46_sequencer.md
R150, R151). -/

namespace Sys2Proof.Machine

open Sys2Proof

/-- L8: the message length in bits modulo 2^64, from the byte counter (R71). -/
def bitLength (len : DWord) : DWord := len <<< 3

/-- z: the number of zero bytes of the padding of an L-byte message, (55 - L) mod 64 (R72). -/
def zeroCount (l : Nat) : Nat := (55 + (64 - l % 64)) % 64

/-- N: the padded length (R72). -/
def paddedLength (l : Nat) : Nat := l + 1 + zeroCount l + 8

/-- nb: the number of blocks of the padded message, floor((L + 8) / 64) + 1 (R72). -/
def blockCount (l : Nat) : Nat := (l + 8) / 64 + 1

/-- PAD: the padded message (R70). -/
def pad (m : List Byte) : List Byte :=
  m ++ [0x80] ++ List.replicate (zeroCount m.length) 0x00 ++ le64bytes (bitLength (BitVec.ofNat 64 m.length))

/-- Block q of a byte sequence: its bytes 64q .. 64q+63 (R74). -/
def blockAt (p : List Byte) (q : Nat) : Vector Byte 64 := Vector.ofFn fun x : Fin 64 => p.getD (64 * q + x.val) 0

/-- SEGMENT: the consecutive whole 64-byte blocks of a byte sequence, in order (R74). -/
def segment (p : List Byte) : List (Vector Byte 64) := (List.range (p.length / 64)).map (blockAt p)

/-- The buffer with one byte stored at position p: WRITE's store (45_host_commands.md R128) and PAD_A's 0x80. -/
def putByte (buf : Vector Byte 64) (p : BitVec 6) (x : Byte) : Vector Byte 64 := buf.set p.toNat x p.isLt

/-- The buffer with 0x00 in the positions lo .. hi - 1. -/
def zeroRange (buf : Vector Byte 64) (lo hi : Nat) : Vector Byte 64 :=
  Vector.ofFn fun x : Fin 64 => if lo ≤ x.val ∧ x.val < hi then 0x00 else buf[x.val]

/-- The buffer with LE64bytes(v) in the positions 56 .. 63. -/
def putLength (buf : Vector Byte 64) (v : DWord) : Vector Byte 64 :=
  Vector.ofFn fun x : Fin 64 => if 56 ≤ x.val then byteOfDWord v (x.val - 56) else buf[x.val]

/-- PAD_A's buffer: 0x80 after the cnt message bytes, zeros after it, and the length field when it fits, that is
when cnt ≤ 55 (R150). -/
def padFirst (buf : Vector Byte 64) (cnt : BitVec 6) (len : DWord) : Vector Byte 64 :=
  let marked := zeroRange (putByte buf cnt 0x80) (cnt.toNat + 1) 64
  if cnt.toNat ≤ 55 then putLength marked (bitLength len) else marked

/-- PAD_B's buffer: 56 zero bytes and the length field (R151). -/
def padSecond (buf : Vector Byte 64) (len : DWord) : Vector Byte 64 :=
  putLength (zeroRange buf 0 56) (bitLength len)

end Sys2Proof.Machine
end

