-- ==== Sys2Proof/Machine/Formatter.lean ====
section
/-! DEFINITION. The output formatter and the digest function (44_output_formatter.md R115 to R118). -/

namespace Sys2Proof.Machine

open Sys2Proof

/-- Word w of a state in the order A, B, C, D (R115). -/
def Quad.word (q : Quad) (w : Fin 4) : Word :=
  if w = 0 then q.a else if w = 1 then q.b else if w = 2 then q.c else q.d

/-- SERIALIZE: A, B, C, D in order, each as four bytes, little-endian (R115). -/
def serialize (q : Quad) : Vector Byte 16 :=
  Vector.ofFn fun n : Fin 16 => byteOfWord (q.word ⟨n.val / 4, by omega⟩) (n.val % 4)

/-- HEXDIGIT: the ASCII code of the lowercase hexadecimal digit of a nibble (R116). -/
def hexDigit (v : BitVec 4) : Byte :=
  if v.toNat ≤ 9 then 0x30 + v.setWidth 8 else 0x61 + (v.setWidth 8 - 10)

/-- HEXFMT: two characters a byte, the most significant nibble first (R117). -/
def hexFormat (dg : Vector Byte 16) : Vector Byte 32 :=
  Vector.ofFn fun n : Fin 32 =>
    if n.val % 2 = 0 then hexDigit (dg[n.val / 2].extractLsb' 4 4) else hexDigit (dg[n.val / 2].extractLsb' 0 4)

/-- The 32 characters of a final state: HEXFMT(SERIALIZE(A, B, C, D)) (R118). -/
def formatState (q : Quad) : Vector Byte 32 := hexFormat (serialize q)

/-- The final state of a message: the IV folded over the blocks of its padding (R118). -/
def digestState (m : List Byte) : Quad := foldCompress iv (segment (pad m))

/-- digest(m): the document's function (R118). -/
def digest (m : List Byte) : Vector Byte 32 := formatState (digestState m)

end Sys2Proof.Machine
end

