-- ==== Sys2Proof/Machine/Ops.lean ====
section
/-! DEFINITION. The shared operations of the meanings: changing the engine alone; the checks a command meets and the
error it raises when one fails, the engine's only exception (60_exceptions.md R165 to R169); and the enabling of a
micro-operation (46_sequencer.md R145). There is no return from an exception (R173). -/

namespace Sys2Proof.Machine

open Sys2Proof Host

/-- The machine with its engine changed; the events to come and the reads are as before. -/
def State.onEngine (s : State) (f : Engine → Engine) : State := { s with engine := f s.engine }

/-- Which commands each phase allows (45_host_commands.md R131). FINAL occurs only while busy, where the busy check
comes first, so the rule gives it no entry; there the commands' own rules are followed: "legal in every phase" for
NOP, START and CLEAR, "ACCUM only" for WRITE and FINISH (log entry 7). Micro-operations are no commands. -/
def legalIn : Instr → Phase → Bool
  | .nop, _ => true
  | .start, _ => true
  | .write _, p => p == .accum
  | .finish, p => p == .accum
  | .clear, _ => true
  | .load, _ => false
  | .step, _ => false
  | .fold, _ => false
  | .padA, _ => false
  | .padB, _ => false
  | .format, _ => false

/-- The error of a command word, if any, in the order of rule R165: busy, then illegal (`none` stands for ILLEGAL),
then not allowed in the phase. -/
def Engine.commandError (e : Engine) (c : Option Instr) : Option ErrorBit :=
  if e.busy then some .busy
  else match c with
    | none => some .opc
    | some i => if legalIn i e.phase then none else some .seq

/-- A command attempted: refused with its error bit set and no other effect, or executed (45_host_commands.md R125).
This is the engine's taking of an exception, for every cause. -/
def attempt (c : Option Instr) (body : Engine → Engine) (e : Engine) : Engine :=
  match e.commandError c with
  | some b => e.raise b
  | none => body e

/-- The meaning of a command whose effect, once allowed, is `body`. -/
def command (i : Instr) (body : Engine → Engine) (s : State) : Outcome State Fault Refusal :=
  .next (s.onEngine (attempt (some i) body))

/-- An ILLEGAL command word: it has no effect but its error bit (30_encoding.md R60). -/
def illegalCommand (s : State) : Outcome State Fault Refusal :=
  .next (s.onEngine (attempt none id))

/-- The meaning of the micro-operation that the sequencer state `code` names: it is enabled when seq = code
(46_sequencer.md R146 to R152), and the engine has no other step (R145). -/
def microOp (code : Seq) (body : Engine → Engine) (s : State) : Outcome State Fault Refusal :=
  if s.engine.seq = code then .next (s.onEngine body) else .refused (.microOpNotEnabled code)

end Sys2Proof.Machine
end

