-- ==== Sys2Proof/Machine/Commands.lean ====
section
/-! DEFINITION. The meanings of the host commands NOP, START, WRITE, FINISH and CLEAR (45_host_commands.md R126 to
R130). The checks of rule R125 are in `command`. -/

namespace Sys2Proof.Machine

open Sys2Proof Host

/-- NOP: no effect (R126). -/
def execNop (s : State) : Outcome State Fault Refusal := command .nop id s

/-- START's effect: the IV in the SRF, everything else the computation reads cleared, phase ACCUM; seq is REST
already and stays (R127). -/
def startEngine (e : Engine) : Engine :=
  { e with
    srf := iv
    work := Quad.zero
    k := Vector.replicate 16 0
    buf := Vector.replicate 64 0
    cnt := 0
    len := 0
    i := 0
    fin := .none
    hex := Vector.replicate 32 0
    errOpc := false
    errSeq := false
    errBusy := false
    phase := .accum }

/-- START: begin a fresh computation (R127). -/
def execStart (s : State) : Outcome State Fault Refusal := command .start startEngine s

/-- WRITE's effect: the byte stored at buf[cnt], L counted modulo 2^64; the 64th byte of a block starts its
compression (R128). -/
def writeEngine (x : Byte) (e : Engine) : Engine :=
  if e.cnt = 63 then
    { e with buf := putByte e.buf e.cnt x, len := e.len + 1, cnt := 0, fin := .none, seq := .load }
  else
    { e with buf := putByte e.buf e.cnt x, len := e.len + 1, cnt := e.cnt + 1 }

/-- WRITE: append one input byte (R128). -/
def execWrite (x : Byte) (s : State) : Outcome State Fault Refusal := command (.write x) (writeEngine x) s

/-- FINISH's effect: the sequencer goes to PAD_A, and nothing else changes, by the pseudocode of R129. DEDUCED: cnt is
kept, so STATUS reads 0x000040c5 after WRITE 'a', 'b', 'c' and FINISH, as 95_test_vectors.md sections 2.12 and 3 have it,
and not 0x00004005 as R129's example has it (log entry 14). -/
def finishEngine (e : Engine) : Engine := { e with seq := .padA }

/-- FINISH: end the input and produce the digest (R129). -/
def execFinish (s : State) : Outcome State Fault Refusal := command .finish finishEngine s

/-- CLEAR's effect: every piece of state takes its reset value (R130, 10_state.md R39). -/
def clearEngine (_ : Engine) : Engine := Engine.reset

/-- CLEAR: discard everything (R130). -/
def execClear (s : State) : Outcome State Fault Refusal := command .clear clearEngine s

end Sys2Proof.Machine
end

