-- ==== Sys2Proof/Machine/Sequencer.lean ====
section
/-! DEFINITION. The meanings of the micro-operations LOAD, STEP, FOLD, PAD_A, PAD_B and FORMAT (46_sequencer.md R146
to R152). -/

namespace Sys2Proof.Machine

open Sys2Proof Host

/-- LOAD's effect: the block decoded into k, the SRF copied into the working registers, i = 0 (R146). -/
def loadEngine (e : Engine) : Engine :=
  { e with k := decodeBlock e.buf, work := e.srf, i := 0, seq := .step }

/-- LOAD: start a block (R146). -/
def execLoad (s : State) : Outcome State Fault Refusal := microOp .load loadEngine s

/-- STEP's effect: step i of the working registers; after step 63 i stays and FOLD is next (R147). -/
def stepEngine (e : Engine) : Engine :=
  if e.i = 63 then { e with work := stepQuad e.k e.i e.work, seq := .fold }
  else { e with work := stepQuad e.k e.i e.work, i := e.i + 1 }

/-- STEP: one compression step (R147). -/
def execStep (s : State) : Outcome State Fault Refusal := microOp .step stepEngine s

/-- Where FOLD hands over to, by fin (R148). -/
def afterFold : FinishState → Seq
  | .none => .rest
  | .more => .padB
  | .last => .format

/-- FOLD's effect: the working registers added into the SRF, i = 0, and the next micro-operation by fin (R148). -/
def foldEngine (e : Engine) : Engine :=
  { e with srf := foldQuad e.srf e.work, i := 0, seq := afterFold e.fin }

/-- FOLD: fold the block into the state (R148). -/
def execFold (s : State) : Outcome State Fault Refusal := microOp .fold foldEngine s

/-- PAD_A's effect: the buffer padded in place; with cnt ≤ 55 this is the last block, else a second one must follow
and the phase stays as it is (R150). -/
def padAEngine (e : Engine) : Engine :=
  if e.cnt.toNat ≤ 55 then
    { e with buf := padFirst e.buf e.cnt e.len, fin := .last, phase := .final, cnt := 0, seq := .load }
  else
    { e with buf := padFirst e.buf e.cnt e.len, fin := .more, cnt := 0, seq := .load }

/-- PAD_A: build the first padding block (R150). -/
def execPadA (s : State) : Outcome State Fault Refusal := microOp .padA padAEngine s

/-- PAD_B's effect: 56 zero bytes and the length field, the last block (R151). -/
def padBEngine (e : Engine) : Engine :=
  { e with buf := padSecond e.buf e.len, fin := .last, phase := .final, seq := .load }

/-- PAD_B: build the second padding block (R151). -/
def execPadB (s : State) : Outcome State Fault Refusal := microOp .padB padBEngine s

/-- FORMAT's effect: the digest characters into HEX, phase DONE, REST (R152). -/
def formatEngine (e : Engine) : Engine :=
  { e with hex := formatState e.srf, phase := .done, fin := .none, seq := .rest }

/-- FORMAT: emit the output (R152). -/
def execFormat (s : State) : Outcome State Fault Refusal := microOp .format formatEngine s

end Sys2Proof.Machine
end

