-- ==== Sys2Proof/Machine/Dispatch.lean ====
section
/-! DEFINITION. The dispatch: one arm per constructor of Instr. -/

namespace Sys2Proof.Machine

open Sys2Proof Host

def exec (i : Instr) (s : State) : Host.Outcome State Fault Refusal :=
  match i with
  -- host commands, 45_host_commands.md R126 to R130
  | .nop => Sys2Proof.Machine.execNop s
  | .start => Sys2Proof.Machine.execStart s
  | .write x => Sys2Proof.Machine.execWrite x s
  | .finish => Sys2Proof.Machine.execFinish s
  | .clear => Sys2Proof.Machine.execClear s
  -- micro-operations, 46_sequencer.md R146 to R152
  | .load => Sys2Proof.Machine.execLoad s
  | .step => Sys2Proof.Machine.execStep s
  | .fold => Sys2Proof.Machine.execFold s
  | .padA => Sys2Proof.Machine.execPadA s
  | .padB => Sys2Proof.Machine.execPadB s
  | .format => Sys2Proof.Machine.execFormat s

end Sys2Proof.Machine
end

