-- ==== Sys2Proof/Machine/Bus.lean ====
section
/-! DEFINITION. The host's bus: the register map (10_state.md R32 to R38), BusRead (45_host_commands.md R133),
BusWrite (R134) with the execution of a command word (R125), and the place of the window in the host's address space
(20_memory.md R49). -/

namespace Sys2Proof.Machine

open Sys2Proof Host

/-- The register map (10_state.md R32). -/
def Reg.atOffset (off : Nat) : Option Reg :=
  if off = 0x00 then some .cmd
  else if off = 0x04 then some .status
  else if off = 0x08 then some .lenLo
  else if off = 0x0C then some .lenHi
  else if off = 0x10 then some .stateA
  else if off = 0x14 then some .stateB
  else if off = 0x18 then some .stateC
  else if off = 0x1C then some .stateD
  else if off = 0x20 then some (.hex 0)
  else if off = 0x24 then some (.hex 1)
  else if off = 0x28 then some (.hex 2)
  else if off = 0x2C then some (.hex 3)
  else if off = 0x30 then some (.hex 4)
  else if off = 0x34 then some (.hex 5)
  else if off = 0x38 then some (.hex 6)
  else if off = 0x3C then some (.hex 7)
  else none

/-- The register an access names; none when the access is not admitted (20_memory.md R43, R44). -/
def accessReg (acc : Access) : Option Reg := if acc.bits = 32 then Reg.atOffset acc.offset else none

/-- HEXw: four output characters, the earliest in the low lane (10_state.md R37). -/
def Engine.hexWord (e : Engine) (w : Fin 8) : Word :=
  le32 e.hex[4 * w.val] e.hex[4 * w.val + 1] e.hex[4 * w.val + 2] e.hex[4 * w.val + 3]

/-- The value a register reads as (45_host_commands.md R133). -/
def readReg (e : Engine) : Reg → Word
  | .cmd => 0x00000000
  | .status => e.status
  | .lenLo => e.len.extractLsb' 0 32
  | .lenHi => e.len.extractLsb' 32 32
  | .stateA => e.srf.a
  | .stateB => e.srf.b
  | .stateC => e.srf.c
  | .stateD => e.srf.d
  | .hex w => e.hexWord w

/-- BusRead: the word is returned to the host and nothing of the engine changes (R133); an access that is not
admitted is refused (20_memory.md R44). -/
def busRead (acc : Access) (s : State) : Outcome State Fault Refusal :=
  match accessReg acc with
  | none => .refused (.accessNotAdmitted acc)
  | some r => .next { s with readLog := readReg s.engine r :: s.readLog }

/-- A command word written to CMD: decoded and attempted (R125). The busy check, first in the rule, is the first
check of every command and of an illegal word, so it decides whatever the word. -/
def writeCommand (w : Word) (s : State) : Outcome State Fault Refusal :=
  match decodeCommand w with
  | .ok i => exec i s
  | .error _ => illegalCommand s

/-- BusWrite: a command at CMD, no effect at any other register (R134); an access that is not admitted is refused
(20_memory.md R44). -/
def busWrite (acc : Access) (w : Word) (s : State) : Outcome State Fault Refusal :=
  match accessReg acc with
  | none => .refused (.accessNotAdmitted acc)
  | some .cmd => writeCommand w s
  | some _ => .next s

/-- The access of the window that a bus access at an absolute address is: offsets count from ENGINE_BASE (R49). An
address outside the 64-byte window is not the engine's: the platform decodes it (10_state.md R38). -/
def accessAtAddress (base bits addr : Nat) : Option Access :=
  if base ≤ addr ∧ addr < base + 64 then some ⟨bits, addr - base⟩ else none

end Sys2Proof.Machine
end

