-- ==== Sys2Proof/Machine/Events.lean ====
section
/-! DEFINITION. What each event of the total order does (20_memory.md R47): the engine's turn (46_sequencer.md R145),
a bus access, the host's wait (70_reset_and_hazards.md R189) and reset (R185). -/

namespace Sys2Proof.Machine

open Sys2Proof Host

/-- The engine agent's turn: the micro-operation seq names, or nothing when seq = REST (R145; log entry 2). -/
def engineTurn (s : State) : Outcome State Fault Refusal :=
  match decodeMicro s.engine.seq.code with
  | .ok i => exec i s
  | .error _ => .next s

/-- Reset: every piece of the engine's state takes its reset value, whatever it is doing (R185). The host's own
events to come stay. -/
def resetEngine (s : State) : Outcome State Fault Refusal := .next (s.onEngine fun _ => Engine.reset)

/-- One event of the order, `s` being the state with the event itself taken off the list. -/
def runEvent (ev : Event) (s : State) : Outcome State Fault Refusal :=
  match ev with
  | .busRead acc => busRead acc s
  | .busWrite acc w => busWrite acc w s
  | .engine => engineTurn s
  | .wait => if s.engine.busy then engineTurn { s with events := .wait :: s.events } else .next s
  | .reset => resetEngine s

/-- The next event: the first of the list; with none listed the engine goes on alone (R145), and at REST nothing
happens (60_exceptions.md R181). -/
def nextEvent (s : State) : Outcome State Fault Refusal :=
  match s.events with
  | [] => engineTurn s
  | ev :: rest => runEvent ev { s with events := rest }

/-- A bus write of a word to CMD. -/
def cmdWrite (w : Word) : Event := .busWrite ⟨32, 0x00⟩ w

/-- The state in which the very next event is the instruction with the bits `w` as opcode_table.json numbers them: a
command word as the next bus write to CMD, a micro-operation's code in seq with the engine's turn next (R26, R63). -/
def placeNext (s : State) (nbits w : Nat) : State :=
  if nbits ≤ 8 then
    match Seq.ofCode w with
    | some q => { s with engine := { s.engine with seq := q }, events := .engine :: s.events }
    | none => s
  else { s with events := cmdWrite (BitVec.ofNat 32 w) :: s.events }

end Sys2Proof.Machine
end

