-- ==== Sys2Proof/Machine/Step.lean ====
section
/-! DEFINITION. One step of the machine: the next event of the total order (20_memory.md R47). -/

namespace Sys2Proof.Machine

open Sys2Proof Host

/-- One step. -/
def step (s : State) : Outcome State Fault Refusal := nextEvent s

/-- The state in which the very next step runs the instruction with the bits `w` (log entry 2). -/
def State.withFetchWord (s : State) (nbits w : Nat) : State := placeNext s nbits w

end Sys2Proof.Machine
end

