-- ==== Sys2Proof/Safety.lean ====
section
/-! DEFINITION. What claims about the machine are stated in: the end of a run and its observation (70_reset_and_hazards.md
R196), the invariants of 46_sequencer.md R156, the micro-operations still to do (R155), what it means that the engine
has taken in a message, and the host's protocol under every interleaving (45_host_commands.md R132, 20_memory.md R47). -/

namespace Sys2Proof.Machine

open Sys2Proof Host

/-- HEX with no digest in it: 32 bytes 0x00 (10_state.md R29). -/
def hexEmpty : Vector Byte 32 := Vector.replicate 32 0

/-- A run for one message has ended: phase = DONE and seq = REST (R196). -/
def Engine.finished (e : Engine) : Bool := e.phase == .done && e.seq == .rest

/-- No command has been refused since the last START, CLEAR or reset (60_exceptions.md R169). -/
def Engine.errorFree (e : Engine) : Bool := !e.errOpc && !e.errSeq && !e.errBusy

/-- The first seven clauses: the invariants (a) to (g) of 46_sequencer.md R156, in its order. -/
def Engine.InvStated (e : Engine) : Prop :=
  (e.phase = .final → e.seq ≠ .rest ∧ e.fin = .last) ∧
  (e.fin = .more → e.phase = .accum ∧ (e.seq = .load ∨ e.seq = .step ∨ e.seq = .fold ∨ e.seq = .padB)) ∧
  (e.seq = .rest → e.fin = .none) ∧
  (e.phase = .idle → e.seq = .rest ∧ e.len = 0 ∧ e.cnt = 0 ∧ e.srf = Quad.zero) ∧
  (e.phase = .accum ∧ e.seq = .rest → e.cnt.toNat = e.len.toNat % 64) ∧
  (e.phase = .done → e.seq = .rest ∧ e.cnt = 0 ∧ e.hex = formatState e.srf) ∧
  ((e.seq = .fold → e.i = 63) ∧
    (e.seq = .rest ∨ e.seq = .load ∨ e.seq = .padA ∨ e.seq = .padB ∨ e.seq = .format → e.i = 0))

/-- What R156 leaves unsaid and its induction needs: where the buffer count, the phase and fin stand while the engine
is busy, and that HEX is empty until FORMAT (45_host_commands.md R136). -/
def Engine.InvBusy (e : Engine) : Prop :=
  (e.seq = .load ∨ e.seq = .step ∨ e.seq = .fold ∨ e.seq = .padB ∨ e.seq = .format → e.cnt = 0) ∧
  ((e.seq = .load ∨ e.seq = .step ∨ e.seq = .fold) ∧ e.fin = .none → e.phase = .accum ∧ e.len.toNat % 64 = 0) ∧
  ((e.seq = .load ∨ e.seq = .step ∨ e.seq = .fold) ∧ e.fin = .last → e.phase = .final) ∧
  (e.seq = .padA → e.phase = .accum ∧ e.fin = .none ∧ e.cnt.toNat = e.len.toNat % 64) ∧
  (e.seq = .padB → e.fin = .more) ∧
  (e.seq = .format → e.phase = .final ∧ e.fin = .last) ∧
  (e.phase ≠ .done → e.hex = hexEmpty)

/-- The invariant of the machine: R156, and what its induction needs. -/
def Engine.Inv (e : Engine) : Prop := e.InvStated ∧ e.InvBusy

/-- The micro-operations that follow the FOLD of the block in flight, by fin (46_sequencer.md R148, R155). -/
def afterFoldCount : FinishState → Nat
  | .none => 0
  | .more => 68
  | .last => 1

/-- The micro-operations the engine still performs before it is at REST (46_sequencer.md R155). -/
def Engine.remaining (e : Engine) : Nat :=
  match e.seq with
  | .rest => 0
  | .load => 66 + afterFoldCount e.fin
  | .step => 65 - e.i.toNat + afterFoldCount e.fin
  | .fold => 1 + afterFoldCount e.fin
  | .padA => if e.cnt.toNat ≤ 55 then 68 else 135
  | .padB => 68
  | .format => 1

/-- n turns of the engine agent in a row (46_sequencer.md R145). -/
def engineTurns : Nat → State → Outcome State Fault Refusal
  | 0, s => .next s
  | n + 1, s =>
    match engineTurn s with
    | .next t => engineTurns n t
    | .fault r => .fault r
    | .refused r => .refused r

/-- The engine, at rest in an open computation, has taken in exactly the bytes of `m` since START: the SRF is the IV
folded over m's whole blocks, the buffer holds what is left of m, and the counters say so (40_padder_segmenter.md
R75, 10_state.md R21, R22). -/
def Absorbed (m : List Byte) (e : Engine) : Prop :=
  e.phase = .accum ∧ e.seq = .rest ∧ e.fin = .none ∧ e.i = 0 ∧
  e.len = BitVec.ofNat 64 m.length ∧ e.cnt.toNat = m.length % 64 ∧
  e.srf = foldCompress iv (segment m) ∧
  (∀ p (hp : p < 64), p < m.length % 64 → e.buf[p] = m.getD (64 * (m.length / 64) + p) 0) ∧
  e.hex = hexEmpty

/-- The computation of `m` is over: phase DONE at REST, the final state in the SRF, its characters in HEX, the length
in L, an empty buffer (45_host_commands.md R132, 44_output_formatter.md R118). -/
def DigestDone (m : List Byte) (e : Engine) : Prop :=
  e.phase = .done ∧ e.seq = .rest ∧ e.fin = .none ∧ e.i = 0 ∧
  e.len = BitVec.ofNat 64 m.length ∧ e.cnt = 0 ∧ e.srf = digestState m ∧ e.hex = digest m

/-- The WRITE of one byte, as a bus write of the word of 30_encoding.md R64. -/
def writeByte (x : Byte) : Event := cmdWrite (0x00000002 ||| (x.setWidth 32 <<< 8))

/-- What the host does to have a message digested, a wait before every command after START and one at the end
(45_host_commands.md R132). -/
def hostProtocol (m : List Byte) : List Event :=
  [cmdWrite 0x00000001] ++ m.flatMap (fun x => [.wait, writeByte x]) ++ [.wait, cmdWrite 0x00000003, .wait]

/-- The events that may fall anywhere in between: turns of the engine, and admitted reads (20_memory.md R47,
45_host_commands.md R136). -/
def Event.passive : Event → Bool
  | .engine => true
  | .busRead acc => acc.wf
  | .busWrite _ _ => false
  | .wait => false
  | .reset => false

/-- Whether an event is a bus access that the spec admits, or no bus access (20_memory.md R43, R44). -/
def Event.admitted : Event → Bool
  | .busRead acc => acc.wf
  | .busWrite acc _ => acc.wf
  | .engine => true
  | .wait => true
  | .reset => true

/-- The engine agent takes the next event: its own turn, a turn during the host's wait, or no event is listed. -/
def State.engineNext (s : State) : Prop :=
  s.events = [] ∨ (∃ rest, s.events = .engine :: rest) ∨ (∃ rest, s.events = .wait :: rest)

/-- The next event is a bus write of the word `w` to CMD. -/
def State.commandNext (s : State) (w : Word) : Prop := ∃ rest, s.events = cmdWrite w :: rest

/-- The next event is a WRITE that will be accepted: a command word with WRITE's opcode and RSV = 0, at REST in ACCUM
(45_host_commands.md R125, R128). -/
def State.acceptedWriteNext (s : State) : Prop :=
  s.engine.seq = .rest ∧ s.engine.phase = .accum ∧
  ∃ w, s.commandNext w ∧ w.toNat / 65536 = 0 ∧ w.toNat % 256 = 2

/-- The next event is reset. -/
def State.resetNext (s : State) : Prop := ∃ rest, s.events = .reset :: rest

/-- A state that some sequence of events reaches from reset. -/
def Reachable (s : State) : Prop :=
  ∃ es n, Host.Core.run Sys2Proof.core n { State.reset with events := es } = .next s

end Sys2Proof.Machine
end

