-- ==== Sys2Proof/Certificates/Slice0/Obligations.lean ====
section
/-! DEFINITION. The statements for the provers. Each docstring names the rule it formalises. A frame is written as an
equation: t is s but for the fields named in it. -/

open Sys2Proof Sys2Proof.Machine Host

section Encoding

/-- Words written out from the encoding tables of 30_encoding.md (R55, R56, R63, R64) decode to what they stand for,
and words that break a rule are rejected by the rule they break (R58, R59). -/
def Obligations.CommandWordsDecodeAsSpecified : Prop :=
  decodeCommand 0x00000000 = .ok .nop ∧
  decodeCommand 0x00000001 = .ok .start ∧
  decodeCommand 0x00006102 = .ok (.write 0x61) ∧
  decodeCommand 0x0000FF02 = .ok (.write 0xFF) ∧
  decodeCommand 0x00000003 = .ok .finish ∧
  decodeCommand 0x00000004 = .ok .clear ∧
  decodeCommand 0x00000005 = .error .opcodeIllegal ∧
  decodeCommand 0x00000103 = .error .dataNotZero ∧
  decodeCommand 0x80006102 = .error .reservedNotZero ∧
  decodeMicro 1 = .ok .load ∧ decodeMicro 2 = .ok .step ∧ decodeMicro 3 = .ok .fold ∧
  decodeMicro 4 = .ok .padA ∧ decodeMicro 5 = .ok .padB ∧ decodeMicro 6 = .ok .format ∧
  decodeMicro 0 = .error .restCode ∧ decodeMicro 7 = .error .unusedCode

/-- For every well-formed instruction, WRITE with every byte among them, decoding its code gives it back (30_encoding.md
R56, R57, R63). -/
def Obligations.DecodeOfEncodeIsInstr : Prop :=
  ∀ i : Instr, i.wf = true → decode (encode i) = .ok i

/-- Each code has one meaning and each instruction one code: a code that decodes is the code of what it decodes to
(30_encoding.md R56, R62, R63). -/
def Obligations.EncodeOfDecodeIsCode : Prop :=
  ∀ (c : Encoding) (i : Instr), decode c = .ok i → encode i = c

/-- A word with RSV ≠ 0, or with DATA ≠ 0 and an opcode other than WRITE's, is ILLEGAL whatever its opcode
(30_encoding.md R58). -/
def Obligations.ReservedBitsMakeWordIllegal : Prop :=
  ∀ w : Word,
    (w.toNat / 65536 ≠ 0 → ∃ r, decodeCommand w = .error r) ∧
    (w.toNat % 256 ≠ 2 → w.toNat / 256 % 256 ≠ 0 → ∃ r, decodeCommand w = .error r)

/-- Of the 2^32 words exactly 260 decode to a command (30_encoding.md R59). -/
def Obligations.ExactlyTwoHundredSixtyCommandWords : Prop :=
  ∃ ws : List Word, ws.Nodup ∧ ws.length = 260 ∧ ∀ w, w ∈ ws ↔ ∃ i, decodeCommand w = .ok i

/-- The number of an instruction's code, taken as opcode_table.json numbers it, is decoded to the instruction, and
placed as the next thing to run it is run by the very next step; the placing is the model's own (log entry 2). -/
def Obligations.OpcodeTableWordRunsItsInstr : Prop :=
  (∀ (i : Instr) (s : State), i.isCommand = true →
    decodeTableWord 32 (encode i).toNat = some i ∧ step (s.withFetchWord 32 (encode i).toNat) = exec i s) ∧
  (∀ (q : Seq) (i : Instr) (s : State), decodeMicro q.code = .ok i →
    decodeTableWord 8 (encode i).toNat = some i ∧
    step (s.withFetchWord 8 (encode i).toNat) = exec i { s with engine := { s.engine with seq := q } })

end Encoding

section Steps

/-- When the next event is a bus write to CMD of a word that decodes, the step is the instruction's exec, with the
event taken off the list (45_host_commands.md R125; the list of events is the model's own, log entry 2). -/
def Obligations.CommandWordRunsDecodedInstr : Prop :=
  ∀ (s : State) (w : Word) (i : Instr) (rest : List Event),
    s.events = .busWrite ⟨32, 0x00⟩ w :: rest → decodeCommand w = .ok i →
    step s = exec i { s with events := rest }

/-- When seq names a micro-operation and the engine agent takes the next event, the step is that micro-operation's
exec: on the engine's own turn, while the host's wait holds, and when no event is listed (46_sequencer.md R145,
70_reset_and_hazards.md R189; log entry 2). -/
def Obligations.EngineTurnRunsNamedMicroOp : Prop :=
  ∀ (s : State) (i : Instr), decodeMicro s.engine.seq.code = .ok i →
    (s.events = [] → step s = exec i s) ∧
    (∀ rest, s.events = .engine :: rest → step s = exec i { s with events := rest }) ∧
    (∀ rest, s.events = .wait :: rest → step s = exec i s)

/-- At REST the engine agent has no step: with no event listed nothing changes, an engine turn and a wait only leave
the list (46_sequencer.md R145, 60_exceptions.md R181; that the step then answers the same state is the model's choice,
log entry 2). -/
def Obligations.RestingEngineDoesNothing : Prop :=
  ∀ s : State, s.engine.seq = .rest →
    (s.events = [] → step s = .next s) ∧
    (∀ rest, s.events = .engine :: rest → step s = .next { s with events := rest }) ∧
    (∀ rest, s.events = .wait :: rest → step s = .next { s with events := rest })

/-- The machine never faults, and it is refused a step only by a bus access that the spec does not admit
(60_exceptions.md R170, R172; 20_memory.md R44): from every state whose next event is none of those there is a next
state. That a state at REST with no event listed has a next state too, where R145 gives the engine no step, is the
model's choice (log entry 2). -/
def Obligations.StepStopsOnlyOnUnadmittedAccess : Prop :=
  ∀ s : State,
    ((∀ ev rest, s.events = ev :: rest → ev.admitted = true) → ∃ t, step s = .next t) ∧
    (∀ f, step s ≠ .fault f) ∧
    (∀ r, step s = .refused r → ∃ acc rest, acc.wf = false ∧ r = .accessNotAdmitted acc ∧
      (s.events = .busRead acc :: rest ∨ ∃ w, s.events = .busWrite acc w :: rest))

end Steps

section Refusals

/-- While busy, any word written to CMD sets ERR_BUSY and is discarded: nothing else changes, whatever the word
(60_exceptions.md R166). -/
def Obligations.BusyCommandIsDiscarded : Prop :=
  ∀ (s : State) (w : Word) (rest : List Event), s.events = cmdWrite w :: rest → s.engine.seq ≠ .rest →
    step s = .next { s with events := rest, engine := { s.engine with errBusy := true } }

/-- While not busy, a word with OPCODE in 0x05..0xFF, RSV ≠ 0, or DATA ≠ 0 with an opcode other than WRITE sets
ERR_OPC and has no other effect (60_exceptions.md R167, 30_encoding.md R60). -/
def Obligations.IllegalWordSetsErrOpc : Prop :=
  ∀ (s : State) (w : Word) (rest : List Event), s.events = cmdWrite w :: rest → s.engine.seq = .rest →
    (5 ≤ w.toNat % 256 ∨ w.toNat / 65536 ≠ 0 ∨ (w.toNat / 256 % 256 ≠ 0 ∧ w.toNat % 256 ≠ 2)) →
    step s = .next { s with events := rest, engine := { s.engine with errOpc := true } }

/-- A WRITE of any byte or a FINISH, while not busy, in phase IDLE or DONE sets ERR_SEQ and has no other effect
(60_exceptions.md R168). -/
def Obligations.WrongPhaseCommandSetsErrSeq : Prop :=
  ∀ (s : State) (i : Instr), s.engine.seq = .rest → (s.engine.phase = .idle ∨ s.engine.phase = .done) →
    (i = .finish ∨ ∃ x, i = .write x) →
    exec i s = .next { s with engine := { s.engine with errSeq := true } }

/-- The order of checks: the first that fails decides which one error bit is set, with no other effect; a command that
passes all three sets none (60_exceptions.md R165). The phase check is stated for the phases of rule R131 in which a
command can meet it. -/
def Obligations.FirstFailingCheckSetsItsBit : Prop :=
  ∀ (s : State) (w : Word) (rest : List Event), s.events = cmdWrite w :: rest →
    ∃ t, step s = .next t ∧ t.events = rest ∧ t.readLog = s.readLog ∧
      (s.engine.seq ≠ .rest → t.engine = { s.engine with errBusy := true }) ∧
      (s.engine.seq = .rest → commandWordWf w = false → t.engine = { s.engine with errOpc := true }) ∧
      (s.engine.seq = .rest → commandWordWf w = true → (w.toNat % 256 = 2 ∨ w.toNat % 256 = 3) →
        (s.engine.phase = .idle ∨ s.engine.phase = .done) → t.engine = { s.engine with errSeq := true }) ∧
      (s.engine.seq = .rest → commandWordWf w = true →
        (w.toNat % 256 = 0 ∨ w.toNat % 256 = 1 ∨ w.toNat % 256 = 4 ∨ s.engine.phase = .accum) →
        ∀ b, t.engine.err b = true → s.engine.err b = true)

/-- An error bit that is set stays set at every step but an accepted START, an accepted CLEAR and reset
(10_state.md R28; 60_exceptions.md R169, R173). -/
def Obligations.ErrorBitsStayUntilCleared : Prop :=
  ∀ (s t : State) (b : ErrorBit), step s = .next t → s.engine.err b = true → t.engine.err b = false →
    s.resetNext ∨ (s.engine.seq = .rest ∧ (s.commandNext 0x00000001 ∨ s.commandNext 0x00000004))

end Refusals

section Commands

/-- NOP at REST completes in every phase and changes nothing (45_host_commands.md R126). -/
def Obligations.NopHasNoEffect : Prop :=
  ∀ s : State, s.engine.seq = .rest → exec .nop s = .next s

/-- START at REST completes in every phase: the IV in the SRF, everything the computation reads and every error bit
cleared, phase ACCUM, and STATUS reads 0x00000001 (45_host_commands.md R127). -/
def Obligations.StartBeginsFreshComputation : Prop :=
  ∀ s : State, s.engine.seq = .rest →
    ∃ t, exec .start s = .next t ∧ t.events = s.events ∧ t.readLog = s.readLog ∧ t.engine.status = 0x00000001 ∧
      t.engine =
        { srf := ⟨0x67452301, 0xefcdab89, 0x98badcfe, 0x10325476⟩
          work := ⟨0, 0, 0, 0⟩
          k := Vector.replicate 16 0
          buf := Vector.replicate 64 0
          cnt := 0
          len := 0
          seq := .rest
          i := 0
          fin := .none
          phase := .accum
          errOpc := false
          errSeq := false
          errBusy := false
          hex := Vector.replicate 32 0 }

/-- START leaves nothing of an earlier computation: from any two states at REST it gives the same engine
(45_host_commands.md R127, 44_output_formatter.md R119). -/
def Obligations.StartForgetsEarlierState : Prop :=
  ∀ s s' : State, s.engine.seq = .rest → s'.engine.seq = .rest →
    ∃ t t', exec .start s = .next t ∧ exec .start s' = .next t' ∧ t.engine = t'.engine

/-- WRITE at REST in ACCUM completes for every byte: the byte at buf[cnt] and no other byte of buf changed, L counted
modulo 2^64; the 64th byte empties the count and starts LOAD with fin NONE, any other raises the count by one; nothing
else changes (45_host_commands.md R128). -/
def Obligations.WriteAppendsOneByte : Prop :=
  ∀ (s : State) (x : Byte), s.engine.seq = .rest → s.engine.phase = .accum →
    ∃ t, exec (.write x) s = .next t ∧
      (∀ p (_ : p < 64), t.engine.buf[p] = if p = s.engine.cnt.toNat then x else s.engine.buf[p]) ∧
      t.engine.len.toNat = (s.engine.len.toNat + 1) % 2 ^ 64 ∧
      (s.engine.cnt.toNat = 63 → t.engine.cnt = 0 ∧ t.engine.fin = .none ∧ t.engine.seq = .load) ∧
      (s.engine.cnt.toNat < 63 → t.engine.cnt.toNat = s.engine.cnt.toNat + 1 ∧ t.engine.fin = s.engine.fin ∧
        t.engine.seq = .rest) ∧
      t = { s with engine := { s.engine with
              buf := t.engine.buf, len := t.engine.len, cnt := t.engine.cnt, fin := t.engine.fin,
              seq := t.engine.seq } }

/-- FINISH at REST in ACCUM completes: the sequencer goes to PAD_A, and nothing else changes (45_host_commands.md R129,
its pseudocode; that cnt is kept, against the STATUS of its example, is the model's reading, log entry 14). -/
def Obligations.FinishStartsPadding : Prop :=
  ∀ s : State, s.engine.seq = .rest → s.engine.phase = .accum →
    exec .finish s = .next { s with engine := { s.engine with seq := .padA } }

/-- CLEAR at REST completes in every phase and puts the engine in the state of reset; STATUS then reads 0
(45_host_commands.md R130, 70_reset_and_hazards.md R186). -/
def Obligations.ClearRestoresResetState : Prop :=
  ∀ s : State, s.engine.seq = .rest →
    ∃ t, exec .clear s = .next t ∧ t = { s with engine := State.reset.engine } ∧ t.engine.status = 0x00000000

end Commands

section MicroOperations

/-- LOAD, where seq names it, completes: each k[j] the little-endian word of buf[4j..4j+3], the working registers a
copy of the SRF, i = 0, STEP next, and nothing else changes (46_sequencer.md R146, 41_message_schedule.md R80). -/
def Obligations.LoadDecodesBlock : Prop :=
  ∀ s : State, s.engine.seq = .load →
    ∃ t, exec .load s = .next t ∧
      (∀ j (_ : j < 16), t.engine.k[j].toNat =
        s.engine.buf[4 * j].toNat + 2 ^ 8 * s.engine.buf[4 * j + 1].toNat
          + 2 ^ 16 * s.engine.buf[4 * j + 2].toNat + 2 ^ 24 * s.engine.buf[4 * j + 3].toNat) ∧
      t.engine.work = s.engine.srf ∧ t.engine.i = 0 ∧ t.engine.seq = .step ∧
      t = { s with engine := { s.engine with
              k := t.engine.k, work := t.engine.work, i := t.engine.i, seq := t.engine.seq } }

/-- STEP, where seq names it, completes: one compression step of the working registers, with the round function of
step i, its table entries and its message word; i counts up, and after step 63 it stays and FOLD is next; nothing else
changes, the SRF among it (46_sequencer.md R147, 43_compression.md R95 to R103). -/
def Obligations.StepIsOneCompressionStep : Prop :=
  ∀ s : State, s.engine.seq = .step →
    ∃ t f, exec .step s = .next t ∧
      (s.engine.i.toNat < 16 →
        f = (s.engine.work.b &&& s.engine.work.c) ||| (~~~ s.engine.work.b &&& s.engine.work.d)) ∧
      (16 ≤ s.engine.i.toNat → s.engine.i.toNat < 32 →
        f = (s.engine.work.b &&& s.engine.work.d) ||| (s.engine.work.c &&& ~~~ s.engine.work.d)) ∧
      (32 ≤ s.engine.i.toNat → s.engine.i.toNat < 48 →
        f = s.engine.work.b ^^^ s.engine.work.c ^^^ s.engine.work.d) ∧
      (48 ≤ s.engine.i.toNat → f = s.engine.work.c ^^^ (s.engine.work.b ||| ~~~ s.engine.work.d)) ∧
      t.engine.work.a = s.engine.work.d ∧ t.engine.work.c = s.engine.work.b ∧ t.engine.work.d = s.engine.work.c ∧
      t.engine.work.b = s.engine.work.b +
        (s.engine.work.a + f + s.engine.k[msgIndex s.engine.i] + tTable[s.engine.i.toNat]).rotateLeft
          (sTable s.engine.i) ∧
      (s.engine.i.toNat < 63 → t.engine.i.toNat = s.engine.i.toNat + 1 ∧ t.engine.seq = .step) ∧
      (s.engine.i.toNat = 63 → t.engine.i.toNat = 63 ∧ t.engine.seq = .fold) ∧
      t = { s with engine := { s.engine with work := t.engine.work, i := t.engine.i, seq := t.engine.seq } }

/-- FOLD, where seq names it, completes: each SRF word grows by its working register modulo 2^32, i = 0, and fin
chooses what is next: NONE rest, MORE PAD_B, LAST FORMAT; nothing else changes (46_sequencer.md R148, 43_compression.md
R104). -/
def Obligations.FoldAddsIntoState : Prop :=
  ∀ s : State, s.engine.seq = .fold →
    ∃ t, exec .fold s = .next t ∧
      t.engine.srf.a.toNat = (s.engine.srf.a.toNat + s.engine.work.a.toNat) % 2 ^ 32 ∧
      t.engine.srf.b.toNat = (s.engine.srf.b.toNat + s.engine.work.b.toNat) % 2 ^ 32 ∧
      t.engine.srf.c.toNat = (s.engine.srf.c.toNat + s.engine.work.c.toNat) % 2 ^ 32 ∧
      t.engine.srf.d.toNat = (s.engine.srf.d.toNat + s.engine.work.d.toNat) % 2 ^ 32 ∧
      t.engine.i = 0 ∧
      (s.engine.fin = .none → t.engine.seq = .rest) ∧
      (s.engine.fin = .more → t.engine.seq = .padB) ∧
      (s.engine.fin = .last → t.engine.seq = .format) ∧
      t = { s with engine := { s.engine with srf := t.engine.srf, i := t.engine.i, seq := t.engine.seq } }

/-- PAD_A, where seq names it, completes: the cnt message bytes stay, 0x80 follows them, zeros follow it, and when cnt
≤ 55 the length in bits modulo 2^64 stands little-endian in bytes 56..63 and this is the last block (fin LAST, phase
FINAL), else fin is MORE and the phase stays; cnt = 0, LOAD next, and nothing else changes (46_sequencer.md R150). -/
def Obligations.PadABuildsFirstPaddingBlock : Prop :=
  ∀ s : State, s.engine.seq = .padA →
    ∃ t, exec .padA s = .next t ∧
      (∀ p (_ : p < 64),
        (p < s.engine.cnt.toNat → t.engine.buf[p] = s.engine.buf[p]) ∧
        (p = s.engine.cnt.toNat → t.engine.buf[p] = 0x80) ∧
        (s.engine.cnt.toNat < p → (p < 56 ∨ 55 < s.engine.cnt.toNat) → t.engine.buf[p] = 0x00) ∧
        (s.engine.cnt.toNat ≤ 55 → 56 ≤ p →
          t.engine.buf[p].toNat = 8 * s.engine.len.toNat % 2 ^ 64 / 2 ^ (8 * (p - 56)) % 256)) ∧
      (s.engine.cnt.toNat ≤ 55 → t.engine.fin = .last ∧ t.engine.phase = .final) ∧
      (55 < s.engine.cnt.toNat → t.engine.fin = .more ∧ t.engine.phase = s.engine.phase) ∧
      t.engine.cnt = 0 ∧ t.engine.seq = .load ∧
      t = { s with engine := { s.engine with
              buf := t.engine.buf, fin := t.engine.fin, phase := t.engine.phase, cnt := t.engine.cnt,
              seq := t.engine.seq } }

/-- PAD_B, where seq names it, completes: 56 zero bytes, then the length in bits modulo 2^64 little-endian; fin LAST,
phase FINAL, LOAD next, and nothing else changes (46_sequencer.md R151). -/
def Obligations.PadBBuildsSecondPaddingBlock : Prop :=
  ∀ s : State, s.engine.seq = .padB →
    ∃ t, exec .padB s = .next t ∧
      (∀ p (_ : p < 64),
        (p < 56 → t.engine.buf[p] = 0x00) ∧
        (56 ≤ p → t.engine.buf[p].toNat = 8 * s.engine.len.toNat % 2 ^ 64 / 2 ^ (8 * (p - 56)) % 256)) ∧
      t.engine.fin = .last ∧ t.engine.phase = .final ∧ t.engine.seq = .load ∧
      t = { s with engine := { s.engine with
              buf := t.engine.buf, fin := t.engine.fin, phase := t.engine.phase, seq := t.engine.seq } }

/-- FORMAT, where seq names it, completes: characters 8w + 2q and 8w + 2q + 1 of HEX are the lowercase hexadecimal
digits of byte q of word w of A, B, C, D, the more significant nibble first; phase DONE, fin NONE, REST, and nothing
else changes (46_sequencer.md R152, 44_output_formatter.md R115 to R117). -/
def Obligations.FormatWritesHexDigits : Prop :=
  ∀ s : State, s.engine.seq = .format →
    ∃ t, exec .format s = .next t ∧
      (∀ (w q : Nat) (_ : w < 4) (_ : q < 4) (v : Nat),
        v = (if w = 0 then s.engine.srf.a else if w = 1 then s.engine.srf.b else if w = 2 then s.engine.srf.c
          else s.engine.srf.d).toNat / 2 ^ (8 * q) % 256 →
        t.engine.hex[8 * w + 2 * q].toNat = (if v / 16 ≤ 9 then 0x30 + v / 16 else 0x61 + (v / 16 - 10)) ∧
        t.engine.hex[8 * w + 2 * q + 1].toNat = (if v % 16 ≤ 9 then 0x30 + v % 16 else 0x61 + (v % 16 - 10))) ∧
      t.engine.phase = .done ∧ t.engine.fin = .none ∧ t.engine.seq = .rest ∧
      t = { s with engine := { s.engine with
              hex := t.engine.hex, phase := t.engine.phase, fin := t.engine.fin, seq := t.engine.seq } }

/-- A micro-operation that seq does not name is no step of the engine: its exec is refused by name (46_sequencer.md
R145). -/
def Obligations.MicroOpOnlyWhenNamed : Prop :=
  ∀ (s : State) (q : Seq) (i : Instr), decodeMicro q.code = .ok i → s.engine.seq ≠ q →
    exec i s = .refused (.microOpNotEnabled q)

end MicroOperations

section Datapath

/-- ADD32 is addition modulo 2^32 of the unsigned values (42_modular_adder.md R85). -/
def Obligations.AdditionIsModular : Prop :=
  ∀ x y : Word, (add32 x y).toNat = (x.toNat + y.toNat) % 2 ^ 32

/-- Bit n of rotl(x, s) is bit (n - s) mod 32 of x, for every amount 0..31, and every amount of the table S is in 4..23
(42_modular_adder.md R87). -/
def Obligations.RotationMovesEachBit : Prop :=
  (∀ (x : Word) (s n : Nat), s ≤ 31 → n < 32 → (rotl32 x s).getLsbD n = x.getLsbD ((n + (32 - s)) % 32)) ∧
  (∀ i : BitVec 6, 4 ≤ sTable i ∧ sTable i ≤ 23)

/-- The four round functions bit by bit: F takes c where b is 1 and d where b is 0; G takes b where d is 1 and c where
d is 0; H is the exclusive or; I is c XOR (b OR NOT d) (43_compression.md R96 to R99). -/
def Obligations.RoundFunctionsPerBit : Prop :=
  ∀ (b c d : Word) (n : Nat), n < 32 →
    (roundF b c d).getLsbD n = (if b.getLsbD n then c.getLsbD n else d.getLsbD n) ∧
    (roundG b c d).getLsbD n = (if d.getLsbD n then b.getLsbD n else c.getLsbD n) ∧
    (roundH b c d).getLsbD n = ((b.getLsbD n ^^ c.getLsbD n) ^^ d.getLsbD n) ∧
    (roundI b c d).getLsbD n = (c.getLsbD n ^^ (b.getLsbD n || !d.getLsbD n))

/-- The message index by its formulas, and in each round every message word is read by exactly one step
(43_compression.md R102, 41_message_schedule.md R81). -/
def Obligations.EachRoundReadsEachWordOnce : Prop :=
  (∀ i : BitVec 6, (msgIndex i).val =
    if i.toNat < 16 then i.toNat else if i.toNat < 32 then (5 * i.toNat + 1) % 16
    else if i.toNat < 48 then (3 * i.toNat + 5) % 16 else 7 * i.toNat % 16) ∧
  (∀ (r : Fin 4) (j : Fin 16),
    ((List.range 16).filter fun x => msgIndex (BitVec.ofNat 6 (16 * r.val + x)) == j).length = 1)

/-- The zero count is the least that makes L + 1 + z congruent to 56 modulo 64 and lies in 0..63, and the padded length
is a whole number of blocks, floor((L + 8) / 64) + 1 of them (40_padder_segmenter.md R72). -/
def Obligations.PaddingIsLeastAndWholeBlocks : Prop :=
  ∀ l : Nat,
    (l + 1 + zeroCount l) % 64 = 56 ∧ (∀ z, z < zeroCount l → (l + 1 + z) % 64 ≠ 56) ∧ zeroCount l < 64 ∧
    paddedLength l = l + 1 + zeroCount l + 8 ∧ paddedLength l = 64 * ((l + 8) / 64 + 1) ∧
    (∀ m : List Byte, m.length = l → (pad m).length = paddedLength l)

/-- Byte p of the padded message, position by position (40_padder_segmenter.md R73). -/
def Obligations.PaddedByteByPosition : Prop :=
  ∀ (m : List Byte) (p : Nat), p < paddedLength m.length →
    (pad m)[p]?.map BitVec.toNat = some
      (if p < m.length then (m.getD p 0).toNat
       else if p = m.length then 0x80
       else if p < paddedLength m.length - 8 then 0x00
       else 8 * m.length % 2 ^ 64 / 2 ^ (8 * (p - (paddedLength m.length - 8))) % 256)

/-- The segments of the padded message are floor((L + 8) / 64) + 1 blocks which, one after another, are the padded
message (40_padder_segmenter.md R74). -/
def Obligations.SegmentsAreThePaddedMessage : Prop :=
  ∀ m : List Byte,
    (segment (pad m)).length = (m.length + 8) / 64 + 1 ∧
    (segment (pad m)).flatMap (fun blk => blk.toList) = pad m

/-- L8 from the counter is the length in bits modulo 2^64, however often the counter has wrapped
(40_padder_segmenter.md R71). -/
def Obligations.LengthFieldCountsBits : Prop :=
  ∀ l : Nat, (bitLength (BitVec.ofNat 64 l)).toNat = l * 8 % 2 ^ 64

/-- Every one of the 32 output characters is one of 0x30..0x39 and 0x61..0x66 (44_output_formatter.md R116, R119). -/
def Obligations.OutputIsLowercaseHex : Prop :=
  ∀ (q : Quad) (n : Nat) (_ : n < 32),
    (0x30 ≤ (formatState q)[n].toNat ∧ (formatState q)[n].toNat ≤ 0x39) ∨
    (0x61 ≤ (formatState q)[n].toNat ∧ (formatState q)[n].toNat ≤ 0x66)

/-- The output characters determine the final state: no bit of it is lost in formatting (44_output_formatter.md R115 to
R117, R120). -/
def Obligations.OutputDeterminesState : Prop :=
  ∀ q q' : Quad, formatState q = formatState q' → q = q'

end Datapath

section Bus

/-- A read of each register returns its value and changes no state of the engine, in every phase, busy or not
(45_host_commands.md R133; that the word is put on the read log is the model's own, log entry 3). -/
def Obligations.ReadsReturnRegisters : Prop :=
  ∀ (s : State) (rest : List Event) (off : Nat) (v : Word), s.events = .busRead ⟨32, off⟩ :: rest →
    ((off = 0x00 ∧ v = 0x00000000) ∨ (off = 0x04 ∧ v = s.engine.status) ∨
     (off = 0x08 ∧ v.toNat = s.engine.len.toNat % 2 ^ 32) ∨ (off = 0x0C ∧ v.toNat = s.engine.len.toNat / 2 ^ 32) ∨
     (off = 0x10 ∧ v = s.engine.srf.a) ∨ (off = 0x14 ∧ v = s.engine.srf.b) ∨
     (off = 0x18 ∧ v = s.engine.srf.c) ∨ (off = 0x1C ∧ v = s.engine.srf.d) ∨
     (∃ (w : Nat) (_ : w < 8), off = 0x20 + 4 * w ∧ v.toNat =
        s.engine.hex[4 * w].toNat + 2 ^ 8 * s.engine.hex[4 * w + 1].toNat
          + 2 ^ 16 * s.engine.hex[4 * w + 2].toNat + 2 ^ 24 * s.engine.hex[4 * w + 3].toNat)) →
    step s = .next { s with events := rest, readLog := v :: s.readLog }

/-- A bus write at offset 0 executes the command word, and at every other admitted offset it has no effect and sets no
error bit (45_host_commands.md R134). -/
def Obligations.WritesElsewhereAreIgnored : Prop :=
  ∀ (s : State) (rest : List Event) (off : Nat) (w : Word), s.events = .busWrite ⟨32, off⟩ w :: rest →
    (off = 0x00 → step s = writeCommand w { s with events := rest }) ∧
    (off % 4 = 0 → 0x04 ≤ off → off ≤ 0x3C → step s = .next { s with events := rest })

/-- An access that is not 32 bits wide, not at a multiple of 4, or at an offset of 0x40 or more is refused, whether it
reads or writes (20_memory.md R44). -/
def Obligations.UnadmittedAccessIsRefused : Prop :=
  ∀ (s : State) (rest : List Event) (acc : Access) (w : Word),
    (acc.bits ≠ 32 ∨ acc.offset % 4 ≠ 0 ∨ 0x40 ≤ acc.offset) →
    (s.events = .busRead acc :: rest ∨ s.events = .busWrite acc w :: rest) →
    step s = .refused (.accessNotAdmitted acc)

/-- STATUS field by field: the codes of the phase, seq and fin, and the sum of the fields at their places, with bits
31:23 zero (10_state.md R23, R25, R27, R34). -/
def Obligations.StatusWordFields : Prop :=
  (Phase.code .idle = 0 ∧ Phase.code .accum = 1 ∧ Phase.code .final = 2 ∧ Phase.code .done = 3) ∧
  (Seq.code .rest = 0 ∧ Seq.code .load = 1 ∧ Seq.code .step = 2 ∧ Seq.code .fold = 3 ∧ Seq.code .padA = 4 ∧
    Seq.code .padB = 5 ∧ Seq.code .format = 6) ∧
  (FinishState.code .none = 0 ∧ FinishState.code .more = 1 ∧ FinishState.code .last = 2) ∧
  (∀ e : Engine, e.status.toNat < 2 ^ 23 ∧ e.status.toNat =
    e.phase.code.toNat + 2 ^ 2 * (if e.seq = .rest then 0 else 1) + 2 ^ 3 * e.errOpc.toNat + 2 ^ 4 * e.errSeq.toNat
      + 2 ^ 5 * e.errBusy.toNat + 2 ^ 6 * e.cnt.toNat + 2 ^ 12 * e.seq.code.toNat + 2 ^ 15 * e.i.toNat
      + 2 ^ 21 * e.fin.code.toNat)

/-- An address is an offset from ENGINE_BASE exactly inside the 64-byte window, and since the base is 64-byte aligned an
access is aligned in the window exactly when its address is (20_memory.md R49, 10_state.md R38; log entry 4). -/
def Obligations.WindowAddressesAreOffsets : Prop :=
  ∀ (bits addr : Nat),
    (∀ acc, accessAtAddress Config.engineBase bits addr = some acc →
      Config.engineBase + acc.offset = addr ∧ acc.bits = bits ∧ acc.offset < 64 ∧
      (acc.offset % 4 = 0 ↔ addr % 4 = 0)) ∧
    (accessAtAddress Config.engineBase bits addr = none ↔
      addr < Config.engineBase ∨ Config.engineBase + 64 ≤ addr)

end Bus

section Reset

/-- Reset, whatever the engine is doing, gives every piece of its state the reset value, and STATUS then reads 0; the
state right after reset has the same engine (70_reset_and_hazards.md R185, 10_state.md R39). That reset keeps the events
to come and the read log is the model's choice (log entry 11). -/
def Obligations.ResetGivesResetValues : Prop :=
  ∃ e : Engine,
    e = { srf := ⟨0, 0, 0, 0⟩
          work := ⟨0, 0, 0, 0⟩
          k := Vector.replicate 16 0
          buf := Vector.replicate 64 0
          cnt := 0
          len := 0
          seq := .rest
          i := 0
          fin := .none
          phase := .idle
          errOpc := false
          errSeq := false
          errBusy := false
          hex := Vector.replicate 32 0 } ∧
    e.status = 0x00000000 ∧ State.reset.engine = e ∧
    ∀ (s : State) (rest : List Event), s.events = .reset :: rest →
      step s = .next { s with events := rest, engine := e }

end Reset

section WholeMachine

/-- Which events write which register. The SRF: FOLD. The working registers: LOAD and STEP. The schedule: LOAD. The
buffer: an accepted WRITE, PAD_A and PAD_B. The buffer count: an accepted WRITE and PAD_A. L: an accepted WRITE. The step
index: LOAD, STEP and FOLD. fin: the WRITE that fills a block, PAD_A, PAD_B and FORMAT. The phase: PAD_A, PAD_B and
FORMAT. HEX: FORMAT. Beside those only an accepted START, an accepted CLEAR and reset write any of them (10_state.md
R15, R18 to R22, R24, R25, R27, R29). -/
def Obligations.OnlyNamedEventsWriteEachRegister : Prop :=
  ∀ s t : State, step s = .next t →
    s.resetNext ∨ (s.engine.seq = .rest ∧ (s.commandNext 0x00000001 ∨ s.commandNext 0x00000004)) ∨
    ((t.engine.srf ≠ s.engine.srf → s.engineNext ∧ s.engine.seq = .fold) ∧
     (t.engine.work ≠ s.engine.work → s.engineNext ∧ (s.engine.seq = .load ∨ s.engine.seq = .step)) ∧
     (t.engine.k ≠ s.engine.k → s.engineNext ∧ s.engine.seq = .load) ∧
     (t.engine.buf ≠ s.engine.buf →
       s.acceptedWriteNext ∨ s.engineNext ∧ (s.engine.seq = .padA ∨ s.engine.seq = .padB)) ∧
     (t.engine.cnt ≠ s.engine.cnt → s.acceptedWriteNext ∨ s.engineNext ∧ s.engine.seq = .padA) ∧
     (t.engine.len ≠ s.engine.len → s.acceptedWriteNext) ∧
     (t.engine.i ≠ s.engine.i →
       s.engineNext ∧ (s.engine.seq = .load ∨ s.engine.seq = .step ∨ s.engine.seq = .fold)) ∧
     (t.engine.fin ≠ s.engine.fin →
       (s.acceptedWriteNext ∧ s.engine.cnt.toNat = 63) ∨
       s.engineNext ∧ (s.engine.seq = .padA ∨ s.engine.seq = .padB ∨ s.engine.seq = .format)) ∧
     (t.engine.phase ≠ s.engine.phase →
       s.engineNext ∧ (s.engine.seq = .padA ∨ s.engine.seq = .padB ∨ s.engine.seq = .format)) ∧
     (t.engine.hex ≠ s.engine.hex → s.engineNext ∧ s.engine.seq = .format))

/-- The invariant holds right after reset (46_sequencer.md R156, 10_state.md R39). -/
def Obligations.ResetMeetsInvariant : Prop := State.reset.engine.Inv

/-- Every step from a state that meets the invariant gives a state that meets it (46_sequencer.md R156: "by
induction"; the clauses of Engine.InvBusy are what the induction needs beside those of the rule). -/
def Obligations.StepKeepsInvariant : Prop :=
  ∀ s t : State, s.engine.Inv → step s = .next t → t.engine.Inv

/-- The invariants (a) to (g) hold in every state that any sequence of events reaches from reset
(46_sequencer.md R156). -/
def Obligations.ReachableStatesMeetInvariants : Prop :=
  ∀ s : State, Reachable s →
    (s.engine.phase = .final → s.engine.seq ≠ .rest ∧ s.engine.fin = .last) ∧
    (s.engine.fin = .more → s.engine.phase = .accum ∧
      (s.engine.seq = .load ∨ s.engine.seq = .step ∨ s.engine.seq = .fold ∨ s.engine.seq = .padB)) ∧
    (s.engine.seq = .rest → s.engine.fin = .none) ∧
    (s.engine.phase = .idle → s.engine.seq = .rest ∧ s.engine.len = 0 ∧ s.engine.cnt = 0 ∧
      s.engine.srf = ⟨0, 0, 0, 0⟩) ∧
    (s.engine.phase = .accum → s.engine.seq = .rest → s.engine.cnt.toNat = s.engine.len.toNat % 64) ∧
    (s.engine.phase = .done → s.engine.seq = .rest ∧ s.engine.cnt = 0 ∧
      s.engine.hex = hexFormat (serialize s.engine.srf)) ∧
    (s.engine.seq = .step → s.engine.i.toNat ≤ 63) ∧
    (s.engine.seq = .fold → s.engine.i.toNat = 63) ∧
    (s.engine.seq = .rest ∨ s.engine.seq = .load ∨ s.engine.seq = .padA ∨ s.engine.seq = .padB ∨
      s.engine.seq = .format → s.engine.i = 0)

/-- The sequencer's transition graph, edge by edge: the two commands that start the engine, every micro-operation's
successor, and that every other command word leaves seq at REST (46_sequencer.md R153). Code 7 is no value of the
type. That a turn at REST answers a next state, with seq at REST, is no edge of R153 but the model's choice (log entry
2). -/
def Obligations.SequencerFollowsItsGraph : Prop :=
  (∀ (s : State) (x : Byte), s.engine.seq = .rest → s.engine.phase = .accum → s.engine.cnt.toNat = 63 →
    ∃ t, exec (.write x) s = .next t ∧ t.engine.seq = .load ∧ t.engine.fin = .none) ∧
  (∀ s : State, s.engine.seq = .rest → s.engine.phase = .accum →
    ∃ t, exec .finish s = .next t ∧ t.engine.seq = .padA) ∧
  (∀ (s : State) (w : Word) (rest : List Event), s.events = cmdWrite w :: rest → s.engine.seq = .rest →
    ∃ t, step s = .next t ∧
      (t.engine.seq = .rest ∨
        s.engine.phase = .accum ∧ decodeCommand w = .ok .finish ∨
        s.engine.phase = .accum ∧ s.engine.cnt.toNat = 63 ∧ ∃ x, decodeCommand w = .ok (.write x))) ∧
  (∀ s : State, ∃ t, engineTurn s = .next t ∧
    (s.engine.seq = .rest → t.engine.seq = .rest) ∧
    (s.engine.seq = .padA → s.engine.cnt.toNat ≤ 55 → t.engine.seq = .load ∧ t.engine.fin = .last) ∧
    (s.engine.seq = .padA → 56 ≤ s.engine.cnt.toNat → t.engine.seq = .load ∧ t.engine.fin = .more) ∧
    (s.engine.seq = .load → t.engine.seq = .step ∧ t.engine.i.toNat = 0) ∧
    (s.engine.seq = .step → s.engine.i.toNat < 63 →
      t.engine.seq = .step ∧ t.engine.i.toNat = s.engine.i.toNat + 1) ∧
    (s.engine.seq = .step → s.engine.i.toNat = 63 → t.engine.seq = .fold) ∧
    (s.engine.seq = .fold → s.engine.fin = .none → t.engine.seq = .rest) ∧
    (s.engine.seq = .fold → s.engine.fin = .more → t.engine.seq = .padB) ∧
    (s.engine.seq = .fold → s.engine.fin = .last → t.engine.seq = .format) ∧
    (s.engine.seq = .padB → t.engine.seq = .load ∧ t.engine.fin = .last) ∧
    (s.engine.seq = .format → t.engine.seq = .rest ∧ t.engine.phase = .done))

/-- The block sub-program: 66 turns of the engine from LOAD (LOAD, 64 STEPs, FOLD) change the SRF to compress(SRF, buf)
and leave everything else the host can see as it was but seq, which fin then decides; no host access changes it
meanwhile, since it is the engine's own turns (46_sequencer.md R149). -/
def Obligations.BlockRunsInSixtySixMicroOps : Prop :=
  ∀ s : State, s.engine.seq = .load →
    ∃ t, engineTurns 66 s = .next t ∧ t.engine.srf = compress s.engine.srf s.engine.buf ∧
      (s.engine.fin = .none → t.engine.seq = .rest) ∧
      (s.engine.fin = .more → t.engine.seq = .padB) ∧
      (s.engine.fin = .last → t.engine.seq = .format) ∧ t.engine.i = 0 ∧
      t = { s with engine := { s.engine with
              srf := t.engine.srf, work := t.engine.work, k := t.engine.k, i := t.engine.i, seq := t.engine.seq } }

/-- The bound on the work of one command: an accepted WRITE that fills a block leaves 66 micro-operations to do, FINISH
68 or 135 by cnt; each turn of the engine does exactly one of them; none are left exactly at REST; and no admitted bus
access adds or removes one while the engine is busy (46_sequencer.md R155). -/
def Obligations.WorkOfOneCommandIsBounded : Prop :=
  (∀ (s : State) (x : Byte), s.engine.seq = .rest → s.engine.phase = .accum → s.engine.cnt.toNat = 63 →
    ∃ t, exec (.write x) s = .next t ∧ t.engine.remaining = 66) ∧
  (∀ s : State, s.engine.seq = .rest → s.engine.phase = .accum →
    ∃ t, exec .finish s = .next t ∧ t.engine.remaining = if s.engine.cnt.toNat ≤ 55 then 68 else 135) ∧
  (∀ e : Engine, e.remaining = 0 ↔ e.seq = .rest) ∧
  (∀ s : State, s.engine.seq ≠ .rest →
    ∃ t, engineTurn s = .next t ∧ t.engine.remaining + 1 = s.engine.remaining) ∧
  (∀ (s : State) (acc : Access) (w : Word) (rest : List Event), s.engine.seq ≠ .rest → acc.wf = true →
    (s.events = .busRead acc :: rest ∨ s.events = .busWrite acc w :: rest) →
    ∃ t, step s = .next t ∧ t.engine.remaining = s.engine.remaining)

/-- Whatever admitted accesses the host makes while the engine is busy, in any order among the engine's turns, the
engine comes to the state its own turns alone give it, but for the bit ERR_BUSY: with fewer turns than the busy period
still has, or with all of them where its last turn comes last (46_sequencer.md R155, 60_exceptions.md R166,
45_host_commands.md R136). -/
def Obligations.HostCannotDisturbBusyEngine : Prop :=
  ∀ (s : State) (es rest : List Event), s.events = es ++ rest →
    (∀ ev ∈ es, ev = .engine ∨ (∃ acc, acc.wf = true ∧ ev = .busRead acc) ∨
      ∃ acc w, acc.wf = true ∧ ev = .busWrite acc w) →
    (es.count .engine < s.engine.remaining ∨
      es.count .engine = s.engine.remaining ∧ es.getLast? = some .engine) →
    ∃ t u, Host.Core.run Sys2Proof.core es.length s = .next t ∧ t.events = rest ∧
      engineTurns (es.count .engine) s = .next u ∧
      u.engine = { t.engine with errBusy := u.engine.errBusy }

end WholeMachine

section Digest

/-- After START at REST the engine has taken in the empty message (45_host_commands.md R127; 10_state.md R16). -/
def Obligations.StartOpensEmptyMessage : Prop :=
  ∀ s : State, s.engine.seq = .rest → ∃ t, exec .start s = .next t ∧ Absorbed [] t.engine

/-- A WRITE that does not fill a block completes, and the engine has taken in one byte more (45_host_commands.md R128,
40_padder_segmenter.md R75). -/
def Obligations.WriteIsAbsorbed : Prop :=
  ∀ (m : List Byte) (x : Byte) (s : State), Absorbed m s.engine → m.length % 64 ≠ 63 →
    ∃ t, exec (.write x) s = .next t ∧ Absorbed (m ++ [x]) t.engine

/-- A WRITE that fills a block completes, and when the engine has done its 66 micro-operations it has taken in one byte
more: the block is folded into the SRF (45_host_commands.md R128, 46_sequencer.md R149, 40_padder_segmenter.md R75). -/
def Obligations.BlockFillingWriteIsAbsorbed : Prop :=
  ∀ (m : List Byte) (x : Byte) (s : State), Absorbed m s.engine → m.length % 64 = 63 →
    ∃ t u, exec (.write x) s = .next t ∧ engineTurns 66 t = .next u ∧ Absorbed (m ++ [x]) u.engine

/-- FINISH of any message the engine has taken in completes, and after 68 or 135 micro-operations the phase is DONE, the
SRF holds the final state and HEX holds digest(m) = HEXFMT(SERIALIZE(fold_compress(IV, SEGMENT(PAD(m)))))
(45_host_commands.md R129, 44_output_formatter.md R118, 40_padder_segmenter.md R75). -/
def Obligations.FinishYieldsDigest : Prop :=
  ∀ (m : List Byte) (s : State), Absorbed m s.engine →
    ∃ t u, exec .finish s = .next t ∧ engineTurns (if m.length % 64 ≤ 55 then 68 else 135) t = .next u ∧
      DigestDone m u.engine

/-- The digest contract under every interleaving. From any state at REST, let the host send START, then each byte of m
in order, then FINISH, waiting before every command and at the end, with any turns of the engine and any admitted reads
anywhere between: the run ends with every event done, phase DONE, no error bit set, HEX = digest(m), the SRF the final
state, LEN = L mod 2^64 and BUFCNT = 0 (45_host_commands.md R132, 20_memory.md R47). The list of events and the wait
event, which stands for R132's WAIT, are the model's own (log entries 2 and 8). -/
def Obligations.DigestContractUnderEveryInterleaving : Prop :=
  ∀ (m : List Byte) (s : State), s.engine.seq = .rest →
    s.events.filter (fun ev => !ev.passive) = hostProtocol m →
    ∃ n t, Host.Core.run Sys2Proof.core n s = .next t ∧ t.events = [] ∧
      t.engine.finished = true ∧ t.engine.errorFree = true ∧ DigestDone m t.engine

end Digest

section Tables

/-- T[0..63] as the table of 43_compression.md R102 lists them, and S[i] = SR[r(i)][i mod 4] with the four amounts of
each round as R101 lists them. The values are those of RFC 1321, which the spec marks as general knowledge (log entry
9). -/
def Obligations.TablesHoldTheListedValues : Prop :=
  tTable.toList =
    [0xd76aa478, 0xe8c7b756, 0x242070db, 0xc1bdceee,
     0xf57c0faf, 0x4787c62a, 0xa8304613, 0xfd469501,
     0x698098d8, 0x8b44f7af, 0xffff5bb1, 0x895cd7be,
     0x6b901122, 0xfd987193, 0xa679438e, 0x49b40821] ++
    [0xf61e2562, 0xc040b340, 0x265e5a51, 0xe9b6c7aa,
     0xd62f105d, 0x02441453, 0xd8a1e681, 0xe7d3fbc8,
     0x21e1cde6, 0xc33707d6, 0xf4d50d87, 0x455a14ed,
     0xa9e3e905, 0xfcefa3f8, 0x676f02d9, 0x8d2a4c8a] ++
    [0xfffa3942, 0x8771f681, 0x6d9d6122, 0xfde5380c,
     0xa4beea44, 0x4bdecfa9, 0xf6bb4b60, 0xbebfbc70,
     0x289b7ec6, 0xeaa127fa, 0xd4ef3085, 0x04881d05,
     0xd9d4d039, 0xe6db99e5, 0x1fa27cf8, 0xc4ac5665] ++
    [0xf4292244, 0x432aff97, 0xab9423a7, 0xfc93a039,
     0x655b59c3, 0x8f0ccc92, 0xffeff47d, 0x85845dd1,
     0x6fa87e4f, 0xfe2ce6e0, 0xa3014314, 0x4e0811a1,
     0xf7537e82, 0xbd3af235, 0x2ad7d2bb, 0xeb86d391] ∧
  ∀ i : BitVec 6,
    (i.toNat < 16 → sTable i = [7, 12, 17, 22].getD (i.toNat % 4) 0) ∧
    (16 ≤ i.toNat → i.toNat < 32 → sTable i = [5, 9, 14, 20].getD (i.toNat % 4) 0) ∧
    (32 ≤ i.toNat → i.toNat < 48 → sTable i = [4, 11, 16, 23].getD (i.toNat % 4) 0) ∧
    (48 ≤ i.toNat → sTable i = [6, 10, 15, 21].getD (i.toNat % 4) 0)

end Tables
end

