-- ==== Sys2Proof/Laws/State.lean ====
section
/-! SUPPORT. One lemma per field per update: the changes of the machine's parts, the raising of an error bit, and the
effect of every instruction on every field of the engine that it settles without a case. -/

namespace Sys2Proof.Machine

open Sys2Proof Host

section StateParts

variable (s : State) (f : Engine → Engine)

@[simp] theorem onEngine_engine : (s.onEngine f).engine = f s.engine := rfl
@[simp] theorem onEngine_events : (s.onEngine f).events = s.events := rfl
@[simp] theorem onEngine_readLog : (s.onEngine f).readLog = s.readLog := rfl

end StateParts

section Raise

variable (e : Engine) (b : ErrorBit)

@[simp] theorem raise_srf : (e.raise b).srf = e.srf := by cases b <;> rfl
@[simp] theorem raise_work : (e.raise b).work = e.work := by cases b <;> rfl
@[simp] theorem raise_k : (e.raise b).k = e.k := by cases b <;> rfl
@[simp] theorem raise_buf : (e.raise b).buf = e.buf := by cases b <;> rfl
@[simp] theorem raise_cnt : (e.raise b).cnt = e.cnt := by cases b <;> rfl
@[simp] theorem raise_len : (e.raise b).len = e.len := by cases b <;> rfl
@[simp] theorem raise_seq : (e.raise b).seq = e.seq := by cases b <;> rfl
@[simp] theorem raise_i : (e.raise b).i = e.i := by cases b <;> rfl
@[simp] theorem raise_fin : (e.raise b).fin = e.fin := by cases b <;> rfl
@[simp] theorem raise_phase : (e.raise b).phase = e.phase := by cases b <;> rfl
@[simp] theorem raise_hex : (e.raise b).hex = e.hex := by cases b <;> rfl

/-- Raising a bit sets that bit and no other (60_exceptions.md R165, R169). -/
@[simp] theorem raise_err (b' : ErrorBit) : (e.raise b).err b' = (e.err b' || b == b') := by
  cases b <;> cases b' <;> simp [Engine.raise, Engine.err]

end Raise

section Effects

variable (e : Engine) (x : Byte)

@[simp] theorem startEngine_srf : (startEngine e).srf = iv := by unfold startEngine; rfl
@[simp] theorem startEngine_work : (startEngine e).work = Quad.zero := by unfold startEngine; rfl
@[simp] theorem startEngine_k : (startEngine e).k = Vector.replicate 16 0 := by unfold startEngine; rfl
@[simp] theorem startEngine_buf : (startEngine e).buf = Vector.replicate 64 0 := by unfold startEngine; rfl
@[simp] theorem startEngine_cnt : (startEngine e).cnt = 0 := by unfold startEngine; rfl
@[simp] theorem startEngine_len : (startEngine e).len = 0 := by unfold startEngine; rfl
@[simp] theorem startEngine_seq : (startEngine e).seq = e.seq := by unfold startEngine; rfl
@[simp] theorem startEngine_i : (startEngine e).i = 0 := by unfold startEngine; rfl
@[simp] theorem startEngine_fin : (startEngine e).fin = .none := by unfold startEngine; rfl
@[simp] theorem startEngine_phase : (startEngine e).phase = .accum := by unfold startEngine; rfl
@[simp] theorem startEngine_errOpc : (startEngine e).errOpc = false := by unfold startEngine; rfl
@[simp] theorem startEngine_errSeq : (startEngine e).errSeq = false := by unfold startEngine; rfl
@[simp] theorem startEngine_errBusy : (startEngine e).errBusy = false := by unfold startEngine; rfl
@[simp] theorem startEngine_hex : (startEngine e).hex = Vector.replicate 32 0 := by unfold startEngine; rfl

@[simp] theorem writeEngine_srf : (writeEngine x e).srf = e.srf := by unfold writeEngine; split <;> rfl
@[simp] theorem writeEngine_work : (writeEngine x e).work = e.work := by unfold writeEngine; split <;> rfl
@[simp] theorem writeEngine_k : (writeEngine x e).k = e.k := by unfold writeEngine; split <;> rfl
@[simp] theorem writeEngine_buf : (writeEngine x e).buf = putByte e.buf e.cnt x := by unfold writeEngine; split <;> rfl
@[simp] theorem writeEngine_len : (writeEngine x e).len = e.len + 1 := by unfold writeEngine; split <;> rfl
@[simp] theorem writeEngine_i : (writeEngine x e).i = e.i := by unfold writeEngine; split <;> rfl
@[simp] theorem writeEngine_phase : (writeEngine x e).phase = e.phase := by unfold writeEngine; split <;> rfl
@[simp] theorem writeEngine_errOpc : (writeEngine x e).errOpc = e.errOpc := by unfold writeEngine; split <;> rfl
@[simp] theorem writeEngine_errSeq : (writeEngine x e).errSeq = e.errSeq := by unfold writeEngine; split <;> rfl
@[simp] theorem writeEngine_errBusy : (writeEngine x e).errBusy = e.errBusy := by unfold writeEngine; split <;> rfl
@[simp] theorem writeEngine_hex : (writeEngine x e).hex = e.hex := by unfold writeEngine; split <;> rfl
@[simp] theorem writeEngine_cnt : (writeEngine x e).cnt = if e.cnt = 63 then 0 else e.cnt + 1 := by
  unfold writeEngine; split <;> rfl
@[simp] theorem writeEngine_fin : (writeEngine x e).fin = if e.cnt = 63 then .none else e.fin := by
  unfold writeEngine; split <;> rfl
@[simp] theorem writeEngine_seq : (writeEngine x e).seq = if e.cnt = 63 then .load else e.seq := by
  unfold writeEngine; split <;> rfl

@[simp] theorem finishEngine_srf : (finishEngine e).srf = e.srf := by unfold finishEngine; rfl
@[simp] theorem finishEngine_work : (finishEngine e).work = e.work := by unfold finishEngine; rfl
@[simp] theorem finishEngine_k : (finishEngine e).k = e.k := by unfold finishEngine; rfl
@[simp] theorem finishEngine_buf : (finishEngine e).buf = e.buf := by unfold finishEngine; rfl
@[simp] theorem finishEngine_cnt : (finishEngine e).cnt = e.cnt := by unfold finishEngine; rfl
@[simp] theorem finishEngine_len : (finishEngine e).len = e.len := by unfold finishEngine; rfl
@[simp] theorem finishEngine_seq : (finishEngine e).seq = .padA := by unfold finishEngine; rfl
@[simp] theorem finishEngine_i : (finishEngine e).i = e.i := by unfold finishEngine; rfl
@[simp] theorem finishEngine_fin : (finishEngine e).fin = e.fin := by unfold finishEngine; rfl
@[simp] theorem finishEngine_phase : (finishEngine e).phase = e.phase := by unfold finishEngine; rfl
@[simp] theorem finishEngine_errOpc : (finishEngine e).errOpc = e.errOpc := by unfold finishEngine; rfl
@[simp] theorem finishEngine_errSeq : (finishEngine e).errSeq = e.errSeq := by unfold finishEngine; rfl
@[simp] theorem finishEngine_errBusy : (finishEngine e).errBusy = e.errBusy := by unfold finishEngine; rfl
@[simp] theorem finishEngine_hex : (finishEngine e).hex = e.hex := by unfold finishEngine; rfl

@[simp] theorem loadEngine_srf : (loadEngine e).srf = e.srf := by unfold loadEngine; rfl
@[simp] theorem loadEngine_work : (loadEngine e).work = e.srf := by unfold loadEngine; rfl
@[simp] theorem loadEngine_k : (loadEngine e).k = decodeBlock e.buf := by unfold loadEngine; rfl
@[simp] theorem loadEngine_buf : (loadEngine e).buf = e.buf := by unfold loadEngine; rfl
@[simp] theorem loadEngine_cnt : (loadEngine e).cnt = e.cnt := by unfold loadEngine; rfl
@[simp] theorem loadEngine_len : (loadEngine e).len = e.len := by unfold loadEngine; rfl
@[simp] theorem loadEngine_seq : (loadEngine e).seq = .step := by unfold loadEngine; rfl
@[simp] theorem loadEngine_i : (loadEngine e).i = 0 := by unfold loadEngine; rfl
@[simp] theorem loadEngine_fin : (loadEngine e).fin = e.fin := by unfold loadEngine; rfl
@[simp] theorem loadEngine_phase : (loadEngine e).phase = e.phase := by unfold loadEngine; rfl
@[simp] theorem loadEngine_errOpc : (loadEngine e).errOpc = e.errOpc := by unfold loadEngine; rfl
@[simp] theorem loadEngine_errSeq : (loadEngine e).errSeq = e.errSeq := by unfold loadEngine; rfl
@[simp] theorem loadEngine_errBusy : (loadEngine e).errBusy = e.errBusy := by unfold loadEngine; rfl
@[simp] theorem loadEngine_hex : (loadEngine e).hex = e.hex := by unfold loadEngine; rfl

@[simp] theorem stepEngine_srf : (stepEngine e).srf = e.srf := by unfold stepEngine; split <;> rfl
@[simp] theorem stepEngine_work : (stepEngine e).work = stepQuad e.k e.i e.work := by unfold stepEngine; split <;> rfl
@[simp] theorem stepEngine_k : (stepEngine e).k = e.k := by unfold stepEngine; split <;> rfl
@[simp] theorem stepEngine_buf : (stepEngine e).buf = e.buf := by unfold stepEngine; split <;> rfl
@[simp] theorem stepEngine_cnt : (stepEngine e).cnt = e.cnt := by unfold stepEngine; split <;> rfl
@[simp] theorem stepEngine_len : (stepEngine e).len = e.len := by unfold stepEngine; split <;> rfl
@[simp] theorem stepEngine_fin : (stepEngine e).fin = e.fin := by unfold stepEngine; split <;> rfl
@[simp] theorem stepEngine_phase : (stepEngine e).phase = e.phase := by unfold stepEngine; split <;> rfl
@[simp] theorem stepEngine_errOpc : (stepEngine e).errOpc = e.errOpc := by unfold stepEngine; split <;> rfl
@[simp] theorem stepEngine_errSeq : (stepEngine e).errSeq = e.errSeq := by unfold stepEngine; split <;> rfl
@[simp] theorem stepEngine_errBusy : (stepEngine e).errBusy = e.errBusy := by unfold stepEngine; split <;> rfl
@[simp] theorem stepEngine_hex : (stepEngine e).hex = e.hex := by unfold stepEngine; split <;> rfl
@[simp] theorem stepEngine_i : (stepEngine e).i = if e.i = 63 then e.i else e.i + 1 := by
  unfold stepEngine; split <;> rfl
@[simp] theorem stepEngine_seq : (stepEngine e).seq = if e.i = 63 then .fold else e.seq := by
  unfold stepEngine; split <;> rfl

@[simp] theorem foldEngine_srf : (foldEngine e).srf = foldQuad e.srf e.work := by unfold foldEngine; rfl
@[simp] theorem foldEngine_work : (foldEngine e).work = e.work := by unfold foldEngine; rfl
@[simp] theorem foldEngine_k : (foldEngine e).k = e.k := by unfold foldEngine; rfl
@[simp] theorem foldEngine_buf : (foldEngine e).buf = e.buf := by unfold foldEngine; rfl
@[simp] theorem foldEngine_cnt : (foldEngine e).cnt = e.cnt := by unfold foldEngine; rfl
@[simp] theorem foldEngine_len : (foldEngine e).len = e.len := by unfold foldEngine; rfl
@[simp] theorem foldEngine_seq : (foldEngine e).seq = afterFold e.fin := by unfold foldEngine; rfl
@[simp] theorem foldEngine_i : (foldEngine e).i = 0 := by unfold foldEngine; rfl
@[simp] theorem foldEngine_fin : (foldEngine e).fin = e.fin := by unfold foldEngine; rfl
@[simp] theorem foldEngine_phase : (foldEngine e).phase = e.phase := by unfold foldEngine; rfl
@[simp] theorem foldEngine_errOpc : (foldEngine e).errOpc = e.errOpc := by unfold foldEngine; rfl
@[simp] theorem foldEngine_errSeq : (foldEngine e).errSeq = e.errSeq := by unfold foldEngine; rfl
@[simp] theorem foldEngine_errBusy : (foldEngine e).errBusy = e.errBusy := by unfold foldEngine; rfl
@[simp] theorem foldEngine_hex : (foldEngine e).hex = e.hex := by unfold foldEngine; rfl

@[simp] theorem padAEngine_srf : (padAEngine e).srf = e.srf := by unfold padAEngine; split <;> rfl
@[simp] theorem padAEngine_work : (padAEngine e).work = e.work := by unfold padAEngine; split <;> rfl
@[simp] theorem padAEngine_k : (padAEngine e).k = e.k := by unfold padAEngine; split <;> rfl
@[simp] theorem padAEngine_buf : (padAEngine e).buf = padFirst e.buf e.cnt e.len := by unfold padAEngine; split <;> rfl
@[simp] theorem padAEngine_cnt : (padAEngine e).cnt = 0 := by unfold padAEngine; split <;> rfl
@[simp] theorem padAEngine_len : (padAEngine e).len = e.len := by unfold padAEngine; split <;> rfl
@[simp] theorem padAEngine_seq : (padAEngine e).seq = .load := by unfold padAEngine; split <;> rfl
@[simp] theorem padAEngine_i : (padAEngine e).i = e.i := by unfold padAEngine; split <;> rfl
@[simp] theorem padAEngine_errOpc : (padAEngine e).errOpc = e.errOpc := by unfold padAEngine; split <;> rfl
@[simp] theorem padAEngine_errSeq : (padAEngine e).errSeq = e.errSeq := by unfold padAEngine; split <;> rfl
@[simp] theorem padAEngine_errBusy : (padAEngine e).errBusy = e.errBusy := by unfold padAEngine; split <;> rfl
@[simp] theorem padAEngine_hex : (padAEngine e).hex = e.hex := by unfold padAEngine; split <;> rfl
@[simp] theorem padAEngine_fin : (padAEngine e).fin = if e.cnt.toNat ≤ 55 then .last else .more := by
  unfold padAEngine; split <;> rfl
@[simp] theorem padAEngine_phase : (padAEngine e).phase = if e.cnt.toNat ≤ 55 then .final else e.phase := by
  unfold padAEngine; split <;> rfl

@[simp] theorem padBEngine_srf : (padBEngine e).srf = e.srf := by unfold padBEngine; rfl
@[simp] theorem padBEngine_work : (padBEngine e).work = e.work := by unfold padBEngine; rfl
@[simp] theorem padBEngine_k : (padBEngine e).k = e.k := by unfold padBEngine; rfl
@[simp] theorem padBEngine_buf : (padBEngine e).buf = padSecond e.buf e.len := by unfold padBEngine; rfl
@[simp] theorem padBEngine_cnt : (padBEngine e).cnt = e.cnt := by unfold padBEngine; rfl
@[simp] theorem padBEngine_len : (padBEngine e).len = e.len := by unfold padBEngine; rfl
@[simp] theorem padBEngine_seq : (padBEngine e).seq = .load := by unfold padBEngine; rfl
@[simp] theorem padBEngine_i : (padBEngine e).i = e.i := by unfold padBEngine; rfl
@[simp] theorem padBEngine_fin : (padBEngine e).fin = .last := by unfold padBEngine; rfl
@[simp] theorem padBEngine_phase : (padBEngine e).phase = .final := by unfold padBEngine; rfl
@[simp] theorem padBEngine_errOpc : (padBEngine e).errOpc = e.errOpc := by unfold padBEngine; rfl
@[simp] theorem padBEngine_errSeq : (padBEngine e).errSeq = e.errSeq := by unfold padBEngine; rfl
@[simp] theorem padBEngine_errBusy : (padBEngine e).errBusy = e.errBusy := by unfold padBEngine; rfl
@[simp] theorem padBEngine_hex : (padBEngine e).hex = e.hex := by unfold padBEngine; rfl

@[simp] theorem formatEngine_srf : (formatEngine e).srf = e.srf := by unfold formatEngine; rfl
@[simp] theorem formatEngine_work : (formatEngine e).work = e.work := by unfold formatEngine; rfl
@[simp] theorem formatEngine_k : (formatEngine e).k = e.k := by unfold formatEngine; rfl
@[simp] theorem formatEngine_buf : (formatEngine e).buf = e.buf := by unfold formatEngine; rfl
@[simp] theorem formatEngine_cnt : (formatEngine e).cnt = e.cnt := by unfold formatEngine; rfl
@[simp] theorem formatEngine_len : (formatEngine e).len = e.len := by unfold formatEngine; rfl
@[simp] theorem formatEngine_seq : (formatEngine e).seq = .rest := by unfold formatEngine; rfl
@[simp] theorem formatEngine_i : (formatEngine e).i = e.i := by unfold formatEngine; rfl
@[simp] theorem formatEngine_fin : (formatEngine e).fin = .none := by unfold formatEngine; rfl
@[simp] theorem formatEngine_phase : (formatEngine e).phase = .done := by unfold formatEngine; rfl
@[simp] theorem formatEngine_errOpc : (formatEngine e).errOpc = e.errOpc := by unfold formatEngine; rfl
@[simp] theorem formatEngine_errSeq : (formatEngine e).errSeq = e.errSeq := by unfold formatEngine; rfl
@[simp] theorem formatEngine_errBusy : (formatEngine e).errBusy = e.errBusy := by unfold formatEngine; rfl
@[simp] theorem formatEngine_hex : (formatEngine e).hex = formatState e.srf := by unfold formatEngine; rfl

@[simp] theorem clearEngine_eq : clearEngine e = Engine.reset := rfl

end Effects

end Sys2Proof.Machine
end

