-- ==== Sys2Proof/Laws/Data.lean ====
section
/-! SUPPORT. The arrays and words of the datapath, element by element. -/

namespace Sys2Proof.Machine

open Sys2Proof

variable (buf : Vector Byte 64) (x : Byte) (cnt : BitVec 6) (len v : DWord) (p : Nat) (hp : p < 64)

/-- One byte stored: that position and no other (45_host_commands.md R128). -/
theorem putByte_get : (putByte buf cnt x)[p] = if p = cnt.toNat then x else buf[p] := by
  simp [putByte, Vector.getElem_set, eq_comm]

theorem zeroRange_get (lo hi : Nat) : (zeroRange buf lo hi)[p] = if lo ≤ p ∧ p < hi then 0 else buf[p] := by
  simp [zeroRange]

theorem putLength_get : (putLength buf v)[p] = if 56 ≤ p then byteOfDWord v (p - 56) else buf[p] := by
  simp [putLength]

/-- PAD_A's buffer, position by position (46_sequencer.md R150). -/
theorem padFirst_get : (padFirst buf cnt len)[p] =
    if cnt.toNat ≤ 55 ∧ 56 ≤ p then byteOfDWord (bitLength len) (p - 56)
    else if p < cnt.toNat then buf[p] else if p = cnt.toNat then 0x80 else 0x00 := by
  unfold padFirst
  have := cnt.isLt
  by_cases hc : cnt.toNat ≤ 55 <;> by_cases h56 : 56 ≤ p <;>
    simp only [hc, h56, ↓reduceIte, putLength_get, zeroRange_get, putByte_get, and_true, and_false, hp] <;>
    (repeat' split) <;> first | rfl | omega

/-- PAD_B's buffer, position by position (R151). -/
theorem padSecond_get : (padSecond buf len)[p] =
    if 56 ≤ p then byteOfDWord (bitLength len) (p - 56) else 0x00 := by
  simp only [padSecond, putLength_get, zeroRange_get, Nat.zero_le, true_and]
  split <;> simp
  omega

/-- A schedule word is the little-endian word of its four bytes (41_message_schedule.md R80). -/
theorem decodeBlock_get (j : Nat) (hj : j < 16) : (decodeBlock buf)[j] =
    le32 buf[4 * j] buf[4 * j + 1] buf[4 * j + 2] buf[4 * j + 3] := by
  simp [decodeBlock]

/-- A digest byte (44_output_formatter.md R115). -/
theorem serialize_get (q : Quad) (n : Nat) (hn : n < 16) :
    (serialize q)[n] = byteOfWord (q.word ⟨n / 4, by omega⟩) (n % 4) := by
  simp [serialize]

/-- An output character (44_output_formatter.md R117). -/
theorem hexFormat_get (dg : Vector Byte 16) (n : Nat) (hn : n < 32) : (hexFormat dg)[n] =
    if n % 2 = 0 then hexDigit (dg[n / 2].extractLsb' 4 4) else hexDigit (dg[n / 2].extractLsb' 0 4) := by
  simp [hexFormat]

/-- The value of a little-endian word (00_scope.md R13). -/
theorem le32_toNat (b0 b1 b2 b3 : Byte) :
    (le32 b0 b1 b2 b3).toNat = b0.toNat + 2 ^ 8 * b1.toNat + 2 ^ 16 * b2.toNat + 2 ^ 24 * b3.toNat := by
  simp only [le32, BitVec.toNat_append]
  have := b0.isLt; have := b1.isLt; have := b2.isLt; have := b3.isLt
  rw [Nat.shiftLeft_eq, Nat.shiftLeft_eq, Nat.shiftLeft_eq]
  rw [← Nat.mul_comm (2 ^ 8) b1.toNat, ← Nat.two_pow_add_eq_or_of_lt (by omega)]
  rw [← Nat.mul_comm (2 ^ (8 + 8)) b2.toNat, ← Nat.two_pow_add_eq_or_of_lt (by omega)]
  rw [← Nat.mul_comm (2 ^ (8 + (8 + 8))) b3.toNat, ← Nat.two_pow_add_eq_or_of_lt (by omega)]
  omega

/-- Taking a little-endian word apart gives its bytes back. -/
theorem byteOfWord_le32 (b0 b1 b2 b3 : Byte) :
    byteOfWord (le32 b0 b1 b2 b3) 0 = b0 ∧ byteOfWord (le32 b0 b1 b2 b3) 1 = b1 ∧
    byteOfWord (le32 b0 b1 b2 b3) 2 = b2 ∧ byteOfWord (le32 b0 b1 b2 b3) 3 = b3 := by
  have := b0.isLt; have := b1.isLt; have := b2.isLt; have := b3.isLt
  refine ⟨?_, ?_, ?_, ?_⟩ <;> apply BitVec.eq_of_toNat_eq <;>
    simp only [byteOfWord, BitVec.extractLsb'_toNat, le32_toNat, Nat.shiftRight_eq_div_pow] <;> omega

/-- The tables' entries by number: a check of their shape (43_compression.md R101, R102). -/
theorem sTable_bounds : ∀ i : BitVec 6, 4 ≤ sTable i ∧ sTable i ≤ 23 := by decide

end Sys2Proof.Machine
end

