-- ==== Sys2Proof/Laws/Decode.lean ====
section
/-! SUPPORT. The fields of a command word as numbers, and the cases of the decoder. -/

namespace Sys2Proof

variable (w : Word)

@[simp] theorem opcodeField_toNat : (opcodeField w).toNat = w.toNat % 256 := by
  simp [opcodeField, BitVec.extractLsb'_toNat]

@[simp] theorem dataField_toNat : (dataField w).toNat = w.toNat / 256 % 256 := by
  simp [dataField, BitVec.extractLsb'_toNat, Nat.shiftRight_eq_div_pow]

@[simp] theorem rsvField_toNat : (rsvField w).toNat = w.toNat / 65536 := by
  have := w.isLt
  simp only [rsvField, BitVec.extractLsb'_toNat, Nat.shiftRight_eq_div_pow]
  omega

/-- Everything the decoder of command words can answer (30_encoding.md R59), on the word's value. -/
theorem decodeCommand_cases :
    (decodeCommand w = .error .reservedNotZero ∧ w.toNat / 65536 ≠ 0) ∨
    (decodeCommand w = .ok (.write (dataField w)) ∧ w.toNat / 65536 = 0 ∧ w.toNat % 256 = 2) ∨
    (decodeCommand w = .error .dataNotZero ∧ w.toNat / 65536 = 0 ∧ w.toNat % 256 ≠ 2 ∧ w.toNat / 256 % 256 ≠ 0) ∨
    (decodeCommand w = .ok .nop ∧ w.toNat = 0) ∨ (decodeCommand w = .ok .start ∧ w.toNat = 1) ∨
    (decodeCommand w = .ok .finish ∧ w.toNat = 3) ∨ (decodeCommand w = .ok .clear ∧ w.toNat = 4) ∨
    (decodeCommand w = .error .opcodeIllegal ∧ w.toNat / 65536 = 0 ∧ w.toNat / 256 % 256 = 0 ∧ 4 < w.toNat % 256) := by
  have hw := w.isLt
  unfold decodeCommand
  simp only [ne_eq, BitVec.toNat_eq, rsvField_toNat, opcodeField_toNat, dataField_toNat]
  repeat' split
  all_goals simp_all <;> omega

/-- The decoder accepts exactly the well-formed words. -/
theorem decodeCommand_error_iff : (∃ r, decodeCommand w = .error r) ↔ commandWordWf w = false := by
  rcases decodeCommand_cases w with h | h | h | h | h | h | h | h <;> simp [h.1, commandWordWf] <;> omega

/-- A well-formed word is a command. -/
theorem decodeCommand_isCommand {i : Instr} (h : decodeCommand w = .ok i) : i.isCommand = true := by
  rcases decodeCommand_cases w with g | g | g | g | g | g | g | g <;> rw [g.1] at h <;> cases h <;> rfl

/-- A seq code names a micro-operation, never a command (R63). -/
theorem decodeMicro_isMicro (code : BitVec 3) {i : Instr} (h : decodeMicro code = .ok i) : i.isCommand = false := by
  revert h
  unfold decodeMicro
  repeat' split
  all_goals
    intro h
    cases h
  all_goals rfl

end Sys2Proof
end

