-- ==== Sys2Proof/Laws/Ops.lean ====
section
/-! SUPPORT. What the shared operations can do, once: a command attempted, a micro-operation, and every instruction's
run under the conditions of its rule. -/

namespace Sys2Proof.Machine

open Sys2Proof Host

variable {e : Engine} {s t : State} {c : Option Instr} {i : Instr} {body : Engine → Engine} {code : Seq}

@[simp] theorem busy_iff : e.busy = true ↔ e.seq ≠ .rest := by simp [Engine.busy]

theorem not_busy_iff : e.busy = false ↔ e.seq = .rest := by simp [Engine.busy]

/-- The first check: busy (60_exceptions.md R166). -/
theorem attempt_of_busy (h : e.seq ≠ .rest) : attempt c body e = e.raise .busy := by
  simp [attempt, Engine.commandError, h]

/-- The second check: illegal (R167). -/
theorem attempt_of_illegal (h : e.seq = .rest) : attempt none body e = e.raise .opc := by
  simp [attempt, Engine.commandError, h]

/-- The third check: not allowed in the phase (R168). -/
theorem attempt_of_phase (h : e.seq = .rest) (hp : legalIn i e.phase = false) :
    attempt (some i) body e = e.raise .seq := by
  simp [attempt, Engine.commandError, h, hp]

/-- A command that passes every check is executed (45_host_commands.md R125). -/
theorem attempt_of_legal (h : e.seq = .rest) (hp : legalIn i e.phase = true) :
    attempt (some i) body e = body e := by
  simp [attempt, Engine.commandError, h, hp]

/-- Everything an attempted command can do. -/
theorem attempt_cases (c : Option Instr) (body : Engine → Engine) (e : Engine) :
    (e.seq ≠ .rest ∧ attempt c body e = e.raise .busy) ∨
    (e.seq = .rest ∧ c = none ∧ attempt c body e = e.raise .opc) ∨
    (∃ i, e.seq = .rest ∧ c = some i ∧ legalIn i e.phase = false ∧ attempt c body e = e.raise .seq) ∨
    (∃ i, e.seq = .rest ∧ c = some i ∧ legalIn i e.phase = true ∧ attempt c body e = body e) := by
  by_cases h : e.seq = .rest
  · cases c with
    | none => exact .inr (.inl ⟨h, rfl, attempt_of_illegal h⟩)
    | some i =>
      cases hp : legalIn i e.phase with
      | false => exact .inr (.inr (.inl ⟨i, h, rfl, hp, attempt_of_phase h hp⟩))
      | true => exact .inr (.inr (.inr ⟨i, h, rfl, hp, attempt_of_legal h hp⟩))
  · exact .inl ⟨h, attempt_of_busy h⟩

/-- A micro-operation that seq names runs. -/
theorem microOp_of_enabled (h : s.engine.seq = code) : microOp code body s = .next (s.onEngine body) := by
  simp [microOp, h]

/-- Everything a micro-operation can do. -/
theorem microOp_next_iff : microOp code body s = .next t ↔ s.engine.seq = code ∧ t = s.onEngine body := by
  unfold microOp
  split <;> simp_all [eq_comm]

theorem legalIn_write_iff (x : Byte) (p : Phase) : legalIn (.write x) p = true ↔ p = .accum := by simp [legalIn]

theorem legalIn_finish_iff (p : Phase) : legalIn .finish p = true ↔ p = .accum := by simp [legalIn]

section Commands

variable (h : s.engine.seq = .rest)
include h

/-- START at REST takes its effect in every phase (45_host_commands.md R127). -/
theorem exec_start_eq : exec .start s = .next (s.onEngine startEngine) := by
  simp [exec, execStart, command, State.onEngine, attempt_of_legal h (i := .start) rfl]

/-- CLEAR at REST takes its effect in every phase (R130). -/
theorem exec_clear_eq : exec .clear s = .next (s.onEngine clearEngine) := by
  simp [exec, execClear, command, State.onEngine, attempt_of_legal h (i := .clear) rfl]

/-- WRITE at REST in ACCUM takes its effect (R128). -/
theorem exec_write_eq (hp : s.engine.phase = .accum) (x : Byte) :
    exec (.write x) s = .next (s.onEngine (writeEngine x)) := by
  simp [exec, execWrite, command, State.onEngine, attempt_of_legal h ((legalIn_write_iff x _).2 hp)]

/-- FINISH at REST in ACCUM takes its effect (R129). -/
theorem exec_finish_eq (hp : s.engine.phase = .accum) : exec .finish s = .next (s.onEngine finishEngine) := by
  simp [exec, execFinish, command, State.onEngine, attempt_of_legal h ((legalIn_finish_iff _).2 hp)]

end Commands

end Sys2Proof.Machine
end

