-- ==== Sys2Proof/Laws/PerInstr.lean ====
section
/-! SUPPORT. The family TableRow: for every instruction, its code matches its own row of opcode_table.json (30_encoding.md
R56, R63): the code masked with the row's mask is the row's match. -/

namespace Sys2Proof.Laws.TableRow

open Sys2Proof

/-- The instruction's code fits its row of the opcode table. -/
def Statement (i : Instr) : Prop := (encode i).toNat &&& i.matchMask.2 = i.matchMask.1

theorem nop : Statement .nop := by unfold Statement; decide
theorem start : Statement .start := by unfold Statement; decide
theorem write (x : Byte) : Statement (.write x) := by
  have h : ∀ x : Byte, (encode (.write x)).toNat &&& 0xFFFF00FF = 0x00000002 := by decide
  exact h x
theorem finish : Statement .finish := by unfold Statement; decide
theorem clear : Statement .clear := by unfold Statement; decide
theorem load : Statement .load := by unfold Statement; decide
theorem step : Statement .step := by unfold Statement; decide
theorem fold : Statement .fold := by unfold Statement; decide
theorem padA : Statement .padA := by unfold Statement; decide
theorem padB : Statement .padB := by unfold Statement; decide
theorem format : Statement .format := by unfold Statement; decide

end Sys2Proof.Laws.TableRow
end

