-- ==== Sys2Proof/Laws/Step.lean ====
section
/-! SUPPORT. What a step can do, once: the engine's turn and a command word as one function of the engine each, and
the inversion of the step. -/

namespace Sys2Proof.Machine

open Sys2Proof Host

/-- The effect of the engine's turn: that of the micro-operation seq names (46_sequencer.md R145). -/
def microEffect (e : Engine) : Engine :=
  match e.seq with
  | .rest => e
  | .load => loadEngine e
  | .step => stepEngine e
  | .fold => foldEngine e
  | .padA => padAEngine e
  | .padB => padBEngine e
  | .format => formatEngine e

/-- The effect of an executed command (45_host_commands.md R126 to R130). -/
def commandBody : Instr → Engine → Engine
  | .start => startEngine
  | .write x => writeEngine x
  | .finish => finishEngine
  | .clear => clearEngine
  | _ => id

/-- The effect of a command word written to CMD, refused or executed (R125). -/
def commandEffect (w : Word) (e : Engine) : Engine :=
  match decodeCommand w with
  | .ok i => attempt (some i) (commandBody i) e
  | .error _ => attempt none id e

/-- The engine's turn always has a next state (60_exceptions.md R170). -/
theorem engineTurn_eq (s : State) : engineTurn s = .next (s.onEngine microEffect) := by
  unfold engineTurn
  cases h : s.engine.seq <;>
    simp [Seq.code, decodeMicro, exec, execLoad, execStep, execFold, execPadA, execPadB, execFormat, microOp, h,
      State.onEngine, microEffect]

/-- A command word always has a next state: it is executed, or refused with an error bit (60_exceptions.md R172). -/
theorem writeCommand_eq (w : Word) (s : State) : writeCommand w s = .next (s.onEngine (commandEffect w)) := by
  unfold writeCommand
  cases h : decodeCommand w with
  | error r => simp [illegalCommand, State.onEngine, commandEffect, h]
  | ok i =>
    have hc := decodeCommand_isCommand w h
    cases i <;> simp [Instr.isCommand] at hc <;>
      simp [exec, execNop, execStart, execWrite, execFinish, execClear, command, State.onEngine, commandEffect, h,
        commandBody]

section StepOnEvents

variable {s : State} {rest : List Event} {acc : Access} {w : Word}

theorem step_nil (h : s.events = []) : step s = .next (s.onEngine microEffect) := by
  simp [step, nextEvent, h, engineTurn_eq]

theorem step_engine (h : s.events = .engine :: rest) :
    step s = .next ({ s with events := rest }.onEngine microEffect) := by
  simp [step, nextEvent, h, runEvent, engineTurn_eq]

theorem step_reset (h : s.events = .reset :: rest) :
    step s = .next ({ s with events := rest }.onEngine fun _ => Engine.reset) := by
  simp [step, nextEvent, h, runEvent, resetEngine]

/-- The host's wait holds while the engine is busy, and the engine goes on (70_reset_and_hazards.md R189). -/
theorem step_wait_busy (h : s.events = .wait :: rest) (hb : s.engine.seq ≠ .rest) :
    step s = .next (s.onEngine microEffect) := by
  simp [step, nextEvent, h, runEvent, engineTurn_eq, hb, State.onEngine]

theorem step_wait_rest (h : s.events = .wait :: rest) (hb : s.engine.seq = .rest) :
    step s = .next { s with events := rest } := by
  simp [step, nextEvent, h, runEvent, hb]

theorem step_command (h : s.events = cmdWrite w :: rest) :
    step s = .next ({ s with events := rest }.onEngine (commandEffect w)) := by
  simp [step, nextEvent, h, cmdWrite, runEvent, busWrite, accessReg, Reg.atOffset, writeCommand_eq]

end StepOnEvents

/-- The register of an access is there exactly when the access is admitted (20_memory.md R43, R44). -/
theorem accessReg_isSome (acc : Access) : (accessReg acc).isSome = acc.wf := by
  obtain ⟨bits, off⟩ := acc
  by_cases hb : bits = 32
  · by_cases ho : off < 64
    · subst hb; interval_cases off <;> rfl
    · have h : Reg.atOffset off = none := by
        unfold Reg.atOffset
        repeat rw [if_neg (by omega)]
      simp [accessReg, Access.wf, hb, h]
      omega
  · simp [accessReg, Access.wf, hb]

/-- CMD is at offset 0, and at no other (10_state.md R32). -/
theorem accessReg_cmd {acc : Access} (h : accessReg acc = some .cmd) : acc = ⟨32, 0⟩ := by
  have hw : acc.wf = true := by rw [← accessReg_isSome, h]; rfl
  obtain ⟨bits, off⟩ := acc
  simp only [Access.wf, Bool.and_eq_true, beq_iff_eq, decide_eq_true_eq] at hw
  obtain ⟨⟨rfl, -⟩, ho⟩ := hw
  interval_cases off <;> first | rfl | exact absurd h (by decide)

/-- What a step can do to the engine: nothing, the turn of the engine agent, a command word, or reset. The events
to come lose their first, except that a busy engine's turn during a wait, or with none listed, takes none. -/
theorem step_cases {s t : State} (h : step s = .next t) :
    (t.engine = s.engine) ∨
    (s.engineNext ∧ s.engine.seq ≠ .rest ∧ t.engine = microEffect s.engine) ∨
    (∃ w, s.commandNext w ∧ t.engine = commandEffect w s.engine) ∨
    (s.resetNext ∧ t.engine = Engine.reset) := by
  have idle : s.engine.seq = .rest → microEffect s.engine = s.engine := fun hr => by simp [microEffect, hr]
  cases he : s.events with
  | nil =>
    rw [step_nil he] at h
    cases h
    by_cases hr : s.engine.seq = .rest
    · exact .inl (idle hr)
    · exact .inr (.inl ⟨.inl he, hr, rfl⟩)
  | cons ev rest =>
    cases ev with
    | engine =>
      rw [step_engine he] at h
      cases h
      by_cases hr : s.engine.seq = .rest
      · exact .inl (idle hr)
      · exact .inr (.inl ⟨.inr (.inl ⟨rest, he⟩), hr, rfl⟩)
    | wait =>
      by_cases hr : s.engine.seq = .rest
      · rw [step_wait_rest he hr] at h
        cases h
        exact .inl rfl
      · rw [step_wait_busy he hr] at h
        cases h
        exact .inr (.inl ⟨.inr (.inr ⟨rest, he⟩), hr, rfl⟩)
    | reset =>
      rw [step_reset he] at h
      cases h
      exact .inr (.inr (.inr ⟨⟨rest, he⟩, rfl⟩))
    | busRead acc =>
      simp only [step, nextEvent, he, runEvent, busRead] at h
      split at h
      · cases h
      · cases h; exact .inl rfl
    | busWrite acc w =>
      by_cases hc : accessReg acc = some .cmd
      · obtain rfl := accessReg_cmd hc
        rw [step_command (w := w) he] at h
        cases h
        exact .inr (.inr (.inl ⟨w, ⟨rest, he⟩, rfl⟩))
      · simp only [step, nextEvent, he, runEvent, busWrite] at h
        split at h
        · cases h
        · simp_all
        · cases h; exact .inl rfl

end Sys2Proof.Machine
end

