-- ==== Sys2Proof/Laws/Run.lean ====
section
/-! SUPPORT. Runs: several steps of the machine and several turns of the engine; and what a command word can do to the
engine, by the word's value. -/

namespace Sys2Proof.Machine

open Sys2Proof Host

variable {s t : State} {n : Nat}

theorem run_zero : Host.Core.run Sys2Proof.core 0 s = .next s := rfl

/-- A run's first step taken off. -/
theorem run_succ (h : step s = .next t) :
    Host.Core.run Sys2Proof.core (n + 1) s = Host.Core.run Sys2Proof.core n t := by
  have hs : Sys2Proof.core.step s = .next t := h
  simp only [Host.Core.run, hs]

/-- A run that ends in a next state took a next state first. -/
theorem run_succ_next (h : Host.Core.run Sys2Proof.core (n + 1) s = .next t) :
    ∃ u, step s = .next u ∧ Host.Core.run Sys2Proof.core n u = .next t := by
  simp only [Host.Core.run] at h
  split at h
  · next u hu => exact ⟨u, hu, h⟩
  · cases h
  · cases h

/-- Turns of the engine change the engine alone, by the effect of each in order. -/
theorem engineTurns_eq (n : Nat) (s : State) : engineTurns n s = .next (s.onEngine (microEffect^[n])) := by
  induction n generalizing s with
  | zero => rfl
  | succ n ih => simp [engineTurns, engineTurn_eq, ih, State.onEngine]

/-- Everything a command word can do to the engine, by the state it meets and by its value (45_host_commands.md R125 to
R131, 60_exceptions.md R165). -/
theorem commandEffect_cases (w : Word) (e : Engine) :
    (e.seq ≠ .rest ∧ commandEffect w e = e.raise .busy) ∨
    (e.seq = .rest ∧ commandWordWf w = false ∧ commandEffect w e = e.raise .opc) ∨
    (e.seq = .rest ∧ e.phase ≠ .accum ∧ (w.toNat % 256 = 2 ∨ w.toNat = 3) ∧ commandEffect w e = e.raise .seq) ∨
    (e.seq = .rest ∧ w.toNat = 0 ∧ commandEffect w e = e) ∨
    (e.seq = .rest ∧ w.toNat = 1 ∧ commandEffect w e = startEngine e) ∨
    (e.seq = .rest ∧ w.toNat = 4 ∧ commandEffect w e = clearEngine e) ∨
    (e.seq = .rest ∧ e.phase = .accum ∧ w.toNat = 3 ∧ commandEffect w e = finishEngine e) ∨
    (e.seq = .rest ∧ e.phase = .accum ∧ w.toNat / 65536 = 0 ∧ w.toNat % 256 = 2 ∧
      commandEffect w e = writeEngine (dataField w) e) := by
  by_cases h : e.seq = .rest
  · have bad : (∃ r, decodeCommand w = .error r) →
        e.seq = .rest ∧ commandWordWf w = false ∧ commandEffect w e = e.raise .opc := by
      rintro ⟨r, hr⟩
      exact ⟨h, (decodeCommand_error_iff w).1 ⟨r, hr⟩, by simp [commandEffect, hr, attempt_of_illegal h]⟩
    have good : ∀ i, decodeCommand w = .ok i → legalIn i e.phase = true →
        commandEffect w e = commandBody i e := by
      intro i hi hl
      simp [commandEffect, hi, attempt_of_legal h hl]
    have wrong : ∀ i, decodeCommand w = .ok i → legalIn i e.phase = false → commandEffect w e = e.raise .seq := by
      intro i hi hl
      simp [commandEffect, hi, attempt_of_phase h hl]
    rcases decodeCommand_cases w with g | g | g | g | g | g | g | g
    · exact .inr (.inl (bad ⟨_, g.1⟩))
    · by_cases hp : e.phase = .accum
      · exact .inr (.inr (.inr (.inr (.inr (.inr (.inr
          ⟨h, hp, g.2.1, g.2.2, good _ g.1 ((legalIn_write_iff _ _).2 hp)⟩))))))
      · exact .inr (.inr (.inl ⟨h, hp, .inl g.2.2, wrong _ g.1 (by simp [legalIn, hp])⟩))
    · exact .inr (.inl (bad ⟨_, g.1⟩))
    · exact .inr (.inr (.inr (.inl ⟨h, g.2, good _ g.1 rfl⟩)))
    · exact .inr (.inr (.inr (.inr (.inl ⟨h, g.2, good _ g.1 rfl⟩))))
    · by_cases hp : e.phase = .accum
      · exact .inr (.inr (.inr (.inr (.inr (.inr (.inl
          ⟨h, hp, g.2, good _ g.1 ((legalIn_finish_iff _).2 hp)⟩))))))
      · exact .inr (.inr (.inl ⟨h, hp, .inr g.2, wrong _ g.1 (by simp [legalIn, hp])⟩))
    · exact .inr (.inr (.inr (.inr (.inr (.inl ⟨h, g.2, good _ g.1 rfl⟩)))))
    · exact .inr (.inl (bad ⟨_, g.1⟩))
  · refine .inl ⟨h, ?_⟩
    unfold commandEffect
    split <;> rw [attempt_of_busy h]

end Sys2Proof.Machine
end

