-- ==== Sys2Proof/Tests/Slice0.lean ====
section
/-! SUPPORT. The model's own tests, each about one step or one function, their expected values taken from spec/95_test_vectors.md
(section named) or worked out by hand from the rule named; and the witnesses that the hypotheses of the statements
can be met. -/

namespace Sys2Proof.Tests

open Sys2Proof Sys2Proof.Machine Host

section Helpers

/-- The engine as START leaves it (45_host_commands.md R127). -/
def eAccum : Engine := { Engine.reset with srf := iv, phase := .accum }

/-- A state with the given engine, the given events to come, and no reads. -/
def st (e : Engine) (es : List Event) : State := { engine := e, events := es, readLog := [] }

/-- The engine in an open computation with the sequencer at `q`. -/
def eAt (q : Seq) : Engine := { eAccum with seq := q }

/-- A property of the next state of an outcome. -/
def nextHas (o : Outcome State Fault Refusal) (p : State → Bool) : Bool :=
  match o with
  | .next t => p t
  | .fault _ => false
  | .refused _ => false

/-- Whether an outcome is the refusal of that access. -/
def isRefusedAccess (o : Outcome State Fault Refusal) (acc : Access) : Bool :=
  match o with
  | .refused r => r == .accessNotAdmitted acc
  | .next _ => false
  | .fault _ => false

/-- The STATUS word after one step with that word written to CMD. -/
def statusAfter (e : Engine) (w : Word) (v : Word) : Bool :=
  nextHas (step (st e [cmdWrite w])) fun t => t.engine.status == v

/-- The ASCII codes of a string (30_encoding.md R64, R65). -/
def bytes (s : String) : List Byte := s.toList.map fun c => BitVec.ofNat 8 c.toNat

/-- The decoder's answer as an option. -/
def dec (w : Word) : Option Instr := (decodeCommand w).toOption

end Helpers

section WellFormedSmoke

/-! One ill-formed term for each check of WellFormed.lean. Every instruction is well formed by its type. -/

theorem test_wf_word_rsv : commandWordWf 0x00010000 = false := by decide
theorem test_wf_word_data : commandWordWf 0x00000103 = false := by decide
theorem test_wf_word_opcode : commandWordWf 0x00000005 = false := by decide
theorem test_wf_word_ok : commandWordWf 0x0000FF02 = true := by decide
theorem test_wf_access_bits : Access.wf ⟨8, 0x04⟩ = false ∧ Access.wf ⟨64, 0x04⟩ = false := by decide
theorem test_wf_access_aligned : Access.wf ⟨32, 0x06⟩ = false := by decide
theorem test_wf_access_window : Access.wf ⟨32, 0x40⟩ = false := by decide
theorem test_wf_access_ok : Access.wf ⟨32, 0x3C⟩ = true := by decide
theorem test_wf_instr : Instr.wf (.write 0xFF) = true := by decide

end WellFormedSmoke

section DecodeByHand

/-! Words written out from 30_encoding.md R55, R56 (bits 31:16 RSV, 15:8 DATA, 7:0 OPCODE) and the codes of R63. -/

theorem test_decode_nop : dec 0b00000000000000000000000000000000 = some .nop := by decide
theorem test_decode_start : dec 0b00000000000000000000000000000001 = some .start := by decide
theorem test_decode_write : dec 0b00000000000000000110000100000010 = some (.write 0x61) := by decide
theorem test_decode_finish : dec 0b00000000000000000000000000000011 = some .finish := by decide
theorem test_decode_clear : dec 0b00000000000000000000000000000100 = some .clear := by decide
theorem test_decode_load : (decodeMicro 0b001).toOption = some .load := by decide
theorem test_decode_step : (decodeMicro 0b010).toOption = some .step := by decide
theorem test_decode_fold : (decodeMicro 0b011).toOption = some .fold := by decide
theorem test_decode_padA : (decodeMicro 0b100).toOption = some .padA := by decide
theorem test_decode_padB : (decodeMicro 0b101).toOption = some .padB := by decide
theorem test_decode_format : (decodeMicro 0b110).toOption = some .format := by decide
theorem test_decode_rest_and_unused : (decodeMicro 0).toOption = none ∧ (decodeMicro 7).toOption = none := by decide

/-- 95 section 2.11: the illegal words. -/
theorem test_decode_illegal :
    dec 0x00000005 = none ∧ dec 0x000000FF = none ∧ dec 0x00000103 = none ∧ dec 0x00000100 = none ∧
    dec 0x00010000 = none ∧ dec 0x80006102 = none ∧ dec 0x00010002 = none := by decide

/-- The rows of opcode_table.json: NOP in 32 bits, WRITE with its byte, and a micro-operation in 8. -/
theorem test_table_words :
    decodeTableWord 32 0 = some .nop ∧ decodeTableWord 32 0x4102 = some (.write 0x41) ∧
    decodeTableWord 8 6 = some .format ∧ decodeTableWord 8 0 = none ∧ decodeTableWord 32 5 = none := by decide

end DecodeByHand

section DatapathVectors

/-- 95 section 2.1. -/
theorem test_add32 :
    add32 0xffffffff 0x00000001 = 0 ∧ add32 0x80000000 0x80000000 = 0 ∧ add32 0x12345678 0x9abcdef0 = 0xacf13568 ∧
    add32 0xffffffff 0xffffffff = 0xfffffffe ∧ add32 0x7fffffff 0x00000001 = 0x80000000 := by decide

theorem test_add32x4 : add32x4 0x67452301 0x98badcfe 0x80636261 0xd76aa478 = 0x57ce06d8 := by decide

/-- 95 section 2.1, with the amounts 0 and 31 that the engine never uses. -/
theorem test_rotl32 :
    rotl32 0x80000001 1 = 0x00000003 ∧ rotl32 0x12345678 7 = 0x1a2b3c09 ∧ rotl32 0x87654321 16 = 0x43218765 ∧
    rotl32 0x00000001 23 = 0x00800000 ∧ rotl32 0x12345678 0 = 0x12345678 ∧ rotl32 0x12345678 31 = 0x091a2b3c := by
  decide

/-- 95 section 2.2, the last two rows. -/
theorem test_round_functions :
    roundF 0x12345678 0x9abcdef0 0x0f0f0f0f = 0x1f3f5f77 ∧ roundG 0x12345678 0x9abcdef0 0x0f0f0f0f = 0x92b4d6f8 ∧
    roundH 0x12345678 0x9abcdef0 0x0f0f0f0f = 0x87878787 ∧ roundI 0x12345678 0x9abcdef0 0x0f0f0f0f = 0x68482808 ∧
    roundF 0xefcdab89 0x98badcfe 0x10325476 = 0x98badcfe ∧ roundG 0xefcdab89 0x98badcfe 0x10325476 = 0x88888888 ∧
    roundI 0xefcdab89 0x98badcfe 0x10325476 = 0x77777777 := by decide

/-- 95 section 2.3: the rows at the round boundaries. -/
theorem test_tables :
    ∀ r ∈ [(0, 0xd76aa478, 7, 0), (1, 0xe8c7b756, 12, 1), (15, 0x49b40821, 22, 15), (16, 0xf61e2562, 5, 1),
      (17, 0xc040b340, 9, 6), (31, 0x8d2a4c8a, 20, 12), (32, 0xfffa3942, 4, 5), (33, 0x8771f681, 11, 8),
      (47, 0xc4ac5665, 23, 2), (48, 0xf4292244, 6, 0), (49, 0x432aff97, 10, 7), (63, 0xeb86d391, 21, 9)],
      tTable.toList.getD r.1 0 = BitVec.ofNat 32 r.2.1 ∧ sTable (BitVec.ofNat 6 r.1) = r.2.2.1 ∧
      (msgIndex (BitVec.ofNat 6 r.1)).val = r.2.2.2 := by decide

/-- 95 section 2.3: the sums of the whole tables. -/
theorem test_table_sums :
    tTable.toList.foldl (fun (x : Word) y => x + y) 0 = 0x27f3a0bc ∧
    ((List.range 64).map fun i => sTable (BitVec.ofNat 6 i)).sum = 848 := by decide +kernel

/-- 95 section 2.6: the block of bytes 00 01 02 .. 3f. -/
theorem test_schedule :
    (decodeBlock (Vector.ofFn fun x : Fin 64 => BitVec.ofNat 8 x.val))[0] = 0x03020100 ∧
    (decodeBlock (Vector.ofFn fun x : Fin 64 => BitVec.ofNat 8 x.val))[15] = 0x3f3e3d3c := by decide

/-- 95 section 2.7: every word at its largest, step 0 and step 48. -/
theorem test_step_corner :
    (stepQuad (Vector.replicate 16 0xffffffff) 0 ⟨0xffffffff, 0xffffffff, 0xffffffff, 0xffffffff⟩).b = 0xb5523aea ∧
    (stepQuad (Vector.replicate 16 0xffffffff) 48 ⟨0xffffffff, 0xffffffff, 0xffffffff, 0xffffffff⟩).b = 0x0a4890bc := by
  decide

/-- 95 section 2.4: zero counts, and the wrap of the length field. -/
theorem test_padding_counts :
    zeroCount 0 = 55 ∧ zeroCount 55 = 0 ∧ zeroCount 56 = 63 ∧ zeroCount 64 = 55 ∧ zeroCount 120 = 63 ∧
    blockCount 55 = 1 ∧ blockCount 56 = 2 ∧ blockCount 120 = 3 ∧
    bitLength 0x2000000000000000 = 0 ∧ bitLength 0x2000000000000001 = 8 ∧ bitLength 0xffffffffffffffff = 0xfffffffffffffff8 := by
  decide

/-- 95 section 2.9, the fourth row: HEX0 = 0x30306130 and HEX7 = 0x65666364. -/
theorem test_formatter :
    (Engine.hexWord { eAccum with hex := formatState ⟨0x0000000a, 0xa0000000, 0x01020304, 0xfedcba98⟩ } 0) = 0x30306130 ∧
    (Engine.hexWord { eAccum with hex := formatState ⟨0x0000000a, 0xa0000000, 0x01020304, 0xfedcba98⟩ } 7) = 0x65666364 := by
  decide

/-! 95 sections 1.1 and 2.5: digests, the last one of two padding blocks ("a" × 56). -/

theorem test_digest_empty : (digest (bytes "")).toList = bytes "d41d8cd98f00b204e9800998ecf8427e" := by decide +kernel
theorem test_digest_abc : (digest (bytes "abc")).toList = bytes "900150983cd24fb0d6963f7d28e17f72" := by decide +kernel
theorem test_digest_alphabet : (digest (bytes "abcdefghijklmnopqrstuvwxyz")).toList = bytes "c3fcd3d76192e4007dfb496cca67e13b" := by decide +kernel
theorem test_digest_two_blocks : (digest (List.replicate 56 0x61)).toList = bytes "3b0c8ac703f828b04c6c197006d17218" := by decide +kernel

end DatapathVectors

section Commands

/-! 95 section 2.10: STATUS after one command word. -/

theorem test_nop : statusAfter Engine.reset 0x00000000 0x00000000 = true := by decide
theorem test_start : statusAfter Engine.reset 0x00000001 0x00000001 = true ∧
    nextHas (exec .start (st Engine.reset [])) (fun t => t.engine.srf == ⟨0x67452301, 0xefcdab89, 0x98badcfe, 0x10325476⟩)
      = true := by decide
theorem test_write_first : nextHas (exec (.write 0x61) (st eAccum [])) (fun t =>
    t.engine.buf[0] == 0x61 && t.engine.buf[1] == 0 && t.engine.len == 1 && t.engine.status == 0x00000041) = true := by
  decide
theorem test_write_64th : nextHas (exec (.write 0x61) (st { eAccum with cnt := 63, len := 63 } [])) (fun t =>
    t.engine.buf[63] == 0x61 && t.engine.len == 64 && t.engine.status == 0x00001005) = true := by decide
theorem test_write_in_idle : statusAfter Engine.reset 0x00006102 0x00000010 = true := by decide
theorem test_finish : statusAfter { eAccum with cnt := 2, len := 2 } 0x00000003 0x00004085 = true := by decide
/-- 95 sections 2.12 and 3: FINISH of "abc" and of the empty message (log entry 14). -/
theorem test_finish_keeps_cnt : statusAfter { eAccum with cnt := 3, len := 3 } 0x00000003 0x000040c5 = true ∧
    statusAfter eAccum 0x00000003 0x00004005 = true := by decide
theorem test_finish_in_done : statusAfter { eAccum with phase := .done } 0x00000003 0x00000013 = true := by decide
theorem test_clear : nextHas (exec .clear (st { eAccum with cnt := 2, len := 2 } [.wait])) (fun t =>
    t == st Engine.reset [.wait]) = true := by decide

/-- 95 section 2.11: illegal words in ACCUM and in IDLE, and that busy beats illegal. -/
theorem test_illegal : statusAfter eAccum 0x80006102 0x00000009 = true ∧
    statusAfter Engine.reset 0x00010002 0x00000008 = true ∧
    statusAfter { eAccum with cnt := 3, len := 3, seq := .padA } 0x00000005 0x000040e5 = true := by decide

/-- 95 section 2.11: even START is refused while busy. -/
theorem test_start_while_busy :
    statusAfter { eAccum with cnt := 3, len := 3, seq := .padA } 0x00000001 0x000040e5 = true := by decide

end Commands

section MicroOperations

/-- The padded block of "abc" (95 section 2.4). -/
def abcBlock : Vector Byte 64 := padFirst (((eAccum.buf.set 0 0x61).set 1 0x62).set 2 0x63) 3 3

/-- 95 section 2.12: PAD_A of "abc", STATUS 0x00401006; the bytes of section 2.4. -/
theorem test_padA_fits : nextHas (exec .padA (st { eAt .padA with cnt := 3, len := 3, buf := Vector.replicate 64 0x55 } []))
    (fun t => t.engine.status == 0x00401006 && t.engine.buf[2] == 0x55 && t.engine.buf[3] == 0x80
      && t.engine.buf[4] == 0 && t.engine.buf[55] == 0 && t.engine.buf[56] == 0x18 && t.engine.buf[57] == 0) = true := by
  decide

/-- 95 section 2.12: PAD_A of 56 bytes, STATUS 0x00201005: no length field. -/
theorem test_padA_more : nextHas (exec .padA (st { eAt .padA with cnt := 56, len := 56, buf := Vector.replicate 64 0x61 } []))
    (fun t => t.engine.status == 0x00201005 && t.engine.buf[55] == 0x61 && t.engine.buf[56] == 0x80
      && t.engine.buf[57] == 0 && t.engine.buf[63] == 0) = true := by decide

/-- 95 sections 2.4 and 2.12: PAD_B of L = 56: c0 01 at bytes 56 and 57, STATUS 0x00401006. -/
theorem test_padB : nextHas (exec .padB (st { eAt .padB with len := 56, fin := .more, buf := Vector.replicate 64 0x61 } []))
    (fun t => t.engine.status == 0x00401006 && t.engine.buf[55] == 0 && t.engine.buf[56] == 0xc0
      && t.engine.buf[57] == 0x01 && t.engine.buf[58] == 0) = true := by decide

/-- 46_sequencer.md R146, the example of "abc". -/
theorem test_load : nextHas (exec .load (st { eAt .load with buf := abcBlock, fin := .last, phase := .final } []))
    (fun t => t.engine.k[0] == 0x80636261 && t.engine.k[1] == 0 && t.engine.k[14] == 0x18 && t.engine.work == iv
      && t.engine.status == 0x00402006) = true := by decide

/-- 95 section 2.7: step 0 of "abc", and STATUS of section 2.12. -/
theorem test_step : nextHas (exec .step (st { eAt .step with work := iv, k := decodeBlock abcBlock, fin := .last, phase := .final } []))
    (fun t => t.engine.work == ⟨0x10325476, 0xd6d117b4, 0xefcdab89, 0x98badcfe⟩ && t.engine.status == 0x0040a006)
      = true := by decide

/-- 95 section 2.8: the row of step 63 of "abc" from the row of step 62; STATUS 0x005fb006 (section 2.12). -/
theorem test_step_last : nextHas (exec .step (st { eAt .step with
      work := ⟨0x7327d604, 0xe484b9d8, 0x624d8cb2, 0x310ade8f⟩, k := decodeBlock abcBlock, i := 63, fin := .last,
      phase := .final } []))
    (fun t => t.engine.work == ⟨0x310ade8f, 0xc08226b3, 0xe484b9d8, 0x624d8cb2⟩ && t.engine.status == 0x005fb006)
      = true := by decide

/-- 43_compression.md R104: the fold of "abc". -/
theorem test_fold : nextHas (exec .fold (st { eAt .fold with
      work := ⟨0x310ade8f, 0xc08226b3, 0xe484b9d8, 0x624d8cb2⟩, i := 63, fin := .last, phase := .final } []))
    (fun t => t.engine.srf == ⟨0x98500190, 0xb04fd23c, 0x7d3f96d6, 0x727fe128⟩ && t.engine.status == 0x00406006)
      = true := by decide

/-- 46_sequencer.md R152: HEX0 and HEX7 of "abc". -/
theorem test_format : nextHas (exec .format (st { eAt .format with
      srf := ⟨0x98500190, 0xb04fd23c, 0x7d3f96d6, 0x727fe128⟩, fin := .last, phase := .final } []))
    (fun t => t.engine.hexWord 0 == 0x31303039 && t.engine.hexWord 7 == 0x32376637 && t.engine.status == 0x00000003)
      = true := by decide

end MicroOperations

section BusTests

/-- 10_state.md R32, R33: CMD reads 0 and a write of STATUS has no effect. -/
theorem test_read_cmd_write_status :
    nextHas (step (st eAccum [.busRead ⟨32, 0x00⟩])) (fun t => t.readLog == [0] && t.engine == eAccum) = true ∧
    nextHas (step (st eAccum [.busWrite ⟨32, 0x04⟩ 0x00000004])) (fun t => t == st eAccum []) = true := by decide

/-- 10_state.md R35: the halves of L. -/
theorem test_read_len :
    nextHas (step (st { eAccum with len := 0x0000000A00000007 } [.busRead ⟨32, 0x0C⟩])) (fun t => t.readLog == [0xA])
      = true ∧
    nextHas (step (st { eAccum with len := 0x0000000A00000007 } [.busRead ⟨32, 0x08⟩])) (fun t => t.readLog == [7])
      = true := by decide

/-- 20_memory.md R44: a narrow, a misaligned and an outside access are refused. -/
theorem test_unadmitted :
    isRefusedAccess (step (st eAccum [.busRead ⟨8, 0x04⟩])) ⟨8, 0x04⟩ = true ∧
    isRefusedAccess (step (st eAccum [.busWrite ⟨32, 0x02⟩ 0])) ⟨32, 0x02⟩ = true ∧
    isRefusedAccess (step (st eAccum [.busRead ⟨32, 0x40⟩])) ⟨32, 0x40⟩ = true := by decide

/-- 70_reset_and_hazards.md R185: reset in the middle of a block. -/
theorem test_reset_event :
    nextHas (step (st { eAt .step with i := 17 } [.reset, .wait])) (fun t => t == st Engine.reset [.wait]) = true := by
  decide

/-- 70_reset_and_hazards.md R189: a wait holds while the engine is busy, and lets go at REST. -/
theorem test_wait :
    nextHas (step (st (eAt .fold) [.wait])) (fun t => t.events == [.wait] && t.engine.seq == .rest) = true ∧
    nextHas (step (st eAccum [.wait])) (fun t => t == st eAccum []) = true := by decide

/-- 46_sequencer.md R145: with no event a busy engine goes on, and one at REST does nothing. -/
theorem test_no_event :
    nextHas (step (st (eAt .load) [])) (fun t => t.engine.seq == .step) = true ∧
    nextHas (step State.reset) (fun t => t == State.reset) = true := by decide

/-- The word placed next is what the next step runs. -/
theorem test_withFetchWord :
    nextHas (step (State.reset.withFetchWord 32 0x00000001)) (fun t => t.engine == eAccum) = true ∧
    nextHas (step (State.reset.withFetchWord 8 6)) (fun t => t.engine.phase == .done) = true := by decide

end BusTests

section Witnesses

/-! For every statement with hypotheses, states and operands that meet them together; where a statement has clauses
over ranges, at the boundaries. -/

theorem witness_DecodeOfEncodeIsInstr : Instr.wf (.write 0xFF) = true := by decide
theorem witness_EncodeOfDecodeIsCode : decode (.command 0x0000FF02) = .ok (.write 0xFF) := by decide
theorem witness_ReservedBitsMakeWordIllegal :
    (0x00010000 : Word).toNat / 65536 ≠ 0 ∧
    ((0x00000100 : Word).toNat % 256 ≠ 2 ∧ (0x00000100 : Word).toNat / 256 % 256 ≠ 0) := by decide
theorem witness_OpcodeTableWordRunsItsInstr :
    Instr.isCommand (.write 0x61) = true ∧ decodeMicro (Seq.code .padB) = .ok .padB := by decide
theorem witness_CommandWordRunsDecodedInstr :
    (st eAccum [.busWrite ⟨32, 0x00⟩ 0x00000003]).events = .busWrite ⟨32, 0x00⟩ 0x00000003 :: [] ∧
    decodeCommand 0x00000003 = .ok .finish := ⟨rfl, by decide⟩
theorem witness_EngineTurnRunsNamedMicroOp :
    ∀ es ∈ [[], [Event.engine], [Event.wait]], decodeMicro (st (eAt .load) es).engine.seq.code = .ok .load ∧
      (st (eAt .load) es).events = es := by decide
theorem witness_RestingEngineDoesNothing :
    ∀ es ∈ [[], [Event.engine], [Event.wait]], (st eAccum es).engine.seq = .rest ∧ (st eAccum es).events = es := by
  decide
theorem witness_StepStopsOnlyOnUnadmittedAccess :
    (Event.busRead ⟨32, 0x3C⟩).admitted = true ∧ (Event.busWrite ⟨32, 0x40⟩ 0).admitted = false := by decide
theorem witness_StepStopsOnlyOnUnadmittedAccess_refused :
    step (st eAccum [.busRead ⟨8, 0x04⟩]) = .refused (.accessNotAdmitted ⟨8, 0x04⟩) := rfl
theorem witness_BusyCommandIsDiscarded :
    (st (eAt .padA) [cmdWrite 0x00000005]).events = cmdWrite 0x00000005 :: [] ∧
    (st (eAt .padA) [cmdWrite 0x00000005]).engine.seq ≠ .rest := by decide
theorem witness_IllegalWordSetsErrOpc :
    (st eAccum [cmdWrite 0x00000005]).events = cmdWrite 0x00000005 :: [] ∧
    (st eAccum [cmdWrite 0x00000005]).engine.seq = .rest ∧
    5 ≤ (0x00000005 : Word).toNat % 256 ∧ (0x00010000 : Word).toNat / 65536 ≠ 0 ∧
    ((0x00000100 : Word).toNat / 256 % 256 ≠ 0 ∧ (0x00000100 : Word).toNat % 256 ≠ 2) := by decide
theorem witness_WrongPhaseCommandSetsErrSeq :
    ∀ p ∈ [Phase.idle, Phase.done], (st { eAccum with phase := p } []).engine.seq = .rest ∧
      (p = .idle ∨ p = .done) := by decide
theorem witness_FirstFailingCheckSetsItsBit :
    (st (eAt .load) [cmdWrite 5]).events = cmdWrite 5 :: [] ∧ (st (eAt .load) [cmdWrite 5]).engine.seq ≠ .rest ∧
    (st eAccum [cmdWrite 5]).engine.seq = .rest ∧ commandWordWf 5 = false ∧
    commandWordWf 3 = true ∧ (3 : Word).toNat % 256 = 3 ∧ (st Engine.reset [cmdWrite 3]).engine.phase = .idle ∧
    commandWordWf 4 = true ∧ (4 : Word).toNat % 256 = 4 := by decide
theorem witness_ErrorBitsStayUntilCleared :
    ∃ t, step (st { eAccum with errSeq := true } [cmdWrite 0x00000001]) = .next t ∧
      (st { eAccum with errSeq := true } [cmdWrite 0x00000001]).engine.err .seq = true ∧ t.engine.err .seq = false :=
  ⟨_, step_command rfl, by decide, by decide⟩
theorem witness_commands_at_rest :
    (st eAccum []).engine.seq = .rest ∧ (st eAccum []).engine.phase = .accum ∧
    (st Engine.reset []).engine.seq = .rest := by decide
theorem witness_WriteAppendsOneByte :
    ∀ c ∈ [0, 62, 63], (st { eAccum with cnt := BitVec.ofNat 6 c } []).engine.seq = .rest ∧
      (st { eAccum with cnt := BitVec.ofNat 6 c } []).engine.phase = .accum ∧
      (st { eAccum with cnt := BitVec.ofNat 6 c } []).engine.cnt.toNat = c := by decide
theorem witness_micro_ops :
    ∀ q ∈ [Seq.load, Seq.step, Seq.fold, Seq.padA, Seq.padB, Seq.format], (st (eAt q) []).engine.seq = q := by decide
theorem witness_StepIsOneCompressionStep :
    ∀ n ∈ [0, 15, 16, 31, 32, 47, 48, 62, 63], (st { eAt .step with i := BitVec.ofNat 6 n } []).engine.seq = .step ∧
      (st { eAt .step with i := BitVec.ofNat 6 n } []).engine.i.toNat = n := by decide
theorem witness_FoldAddsIntoState :
    ∀ f ∈ [FinishState.none, .more, .last], (st { eAt .fold with fin := f } []).engine.seq = .fold ∧
      (st { eAt .fold with fin := f } []).engine.fin = f := by decide
theorem witness_PadABuildsFirstPaddingBlock :
    ∀ c ∈ [0, 55, 56, 63], (st { eAt .padA with cnt := BitVec.ofNat 6 c } []).engine.seq = .padA ∧
      (st { eAt .padA with cnt := BitVec.ofNat 6 c } []).engine.cnt.toNat = c := by decide
theorem witness_MicroOpOnlyWhenNamed :
    decodeMicro (Seq.code .fold) = .ok .fold ∧ (st (eAt .load) []).engine.seq ≠ .fold := by decide
theorem witness_RotationMovesEachBit : 0 ≤ 31 ∧ 31 ≤ 31 ∧ 31 < 32 := by decide
theorem witness_PaddedByteByPosition : 63 < paddedLength 55 ∧ 127 < paddedLength 56 := by decide
theorem witness_OutputDeterminesState : formatState iv = formatState iv := rfl
theorem witness_ReadsReturnRegisters :
    ∀ r ∈ [0x00, 0x04, 0x08, 0x0C, 0x10, 0x14, 0x18, 0x1C, 0x20, 0x3C],
      (st eAccum [.busRead ⟨32, r⟩]).events = .busRead ⟨32, r⟩ :: [] := by decide
theorem witness_WritesElsewhereAreIgnored :
    ∀ r ∈ [0x00, 0x04, 0x3C], (st eAccum [.busWrite ⟨32, r⟩ 7]).events = .busWrite ⟨32, r⟩ 7 :: [] := by decide
theorem witness_UnadmittedAccessIsRefused :
    (Access.bits ⟨16, 0⟩ ≠ 32 ∧ Access.offset ⟨32, 0x3D⟩ % 4 ≠ 0 ∧ 0x40 ≤ Access.offset ⟨32, 0x40⟩) ∧
    (st eAccum [.busRead ⟨16, 0⟩]).events = .busRead ⟨16, 0⟩ :: [] := by decide
theorem witness_WindowAddressesAreOffsets :
    accessAtAddress Config.engineBase 32 Config.engineBase = some ⟨32, 0⟩ := by simp [accessAtAddress]
theorem witness_ResetGivesResetValues : (st (eAt .step) [.reset]).events = .reset :: [] := rfl
theorem witness_steps_with_next : ∃ t, step (st (eAt .fold) [.engine]) = .next t := ⟨_, step_engine rfl⟩
theorem witness_ReachableStatesMeetInvariants :
    Reachable (st eAccum []) := ⟨[cmdWrite 0x00000001], 1, rfl⟩
theorem witness_ReachableStatesMeetInvariants_reset : Reachable State.reset := ⟨[], 0, rfl⟩
theorem witness_SequencerFollowsItsGraph :
    (st eAccum [cmdWrite 0x00000003]).events = cmdWrite 0x00000003 :: [] ∧
    (st eAccum [cmdWrite 0x00000003]).engine.seq = .rest := by decide
theorem witness_WorkOfOneCommandIsBounded :
    (st (eAt .load) [.busRead ⟨32, 0x04⟩]).engine.seq ≠ .rest ∧ Access.wf ⟨32, 0x04⟩ = true ∧
    (st (eAt .load) [.busRead ⟨32, 0x04⟩]).events = .busRead ⟨32, 0x04⟩ :: [] := by decide
theorem witness_HostCannotDisturbBusyEngine :
    (∀ ev ∈ [Event.busWrite ⟨32, 0⟩ 1, .engine, .busRead ⟨32, 4⟩], ev = .engine ∨
      (∃ acc, acc.wf = true ∧ ev = .busRead acc) ∨ ∃ acc w, acc.wf = true ∧ ev = .busWrite acc w) ∧
    [Event.busWrite ⟨32, 0⟩ 1, .engine, .busRead ⟨32, 4⟩].count .engine < (eAt .load).remaining := by
  refine ⟨?_, by decide⟩
  intro ev hev
  simp only [List.mem_cons, List.not_mem_nil, or_false] at hev
  rcases hev with rfl | rfl | rfl
  · exact .inr (.inr ⟨_, _, by decide, rfl⟩)
  · exact .inl rfl
  · exact .inr (.inl ⟨_, by decide, rfl⟩)
theorem witness_HostCannotDisturbBusyEngine_state :
    (st (eAt .load) ([.busWrite ⟨32, 0⟩ 1, .engine, .busRead ⟨32, 4⟩] ++ [.wait])).events =
      [.busWrite ⟨32, 0⟩ 1, .engine, .busRead ⟨32, 4⟩] ++ [.wait] ∧
    (st (eAt .load) []).engine.remaining = 66 := by decide
/-- All the turns left, the last one last. -/
theorem witness_HostCannotDisturbBusyEngine_last :
    (st (eAt .format) ([.busWrite ⟨32, 0⟩ 1, .engine] ++ [.wait])).events =
      [.busWrite ⟨32, 0⟩ 1, .engine] ++ [.wait] ∧
    [Event.busWrite ⟨32, 0⟩ 1, .engine].count .engine = (st (eAt .format) []).engine.remaining ∧
    [Event.busWrite ⟨32, 0⟩ 1, .engine].getLast? = some .engine := by decide
theorem witness_OnlyNamedEventsWriteEachRegister :
    (∃ t, step (st { eAccum with cnt := 63, fin := .more } [writeByte 0x61]) = .next t ∧
      t.engine.fin ≠ .more) ∧
    (∃ t, step (st (eAt .padB) [.engine]) = .next t ∧ t.engine.phase ≠ .accum) :=
  ⟨⟨_, step_command rfl, by decide⟩, ⟨_, step_engine rfl, by decide⟩⟩
theorem witness_absorbed_empty : Absorbed [] eAccum := by unfold Absorbed; decide
theorem witness_absorbed_63 :
    Absorbed (List.replicate 63 0) { eAccum with cnt := 63, len := 63 } := by unfold Absorbed; decide
/-- The lengths where FINISH's two counts meet. -/
theorem witness_absorbed_55_56 :
    Absorbed (List.replicate 55 0) { eAccum with cnt := 55, len := 55 } ∧
    Absorbed (List.replicate 56 0) { eAccum with cnt := 56, len := 56 } := by unfold Absorbed; decide
theorem witness_DigestContractUnderEveryInterleaving :
    (st Engine.reset ([.engine, .busRead ⟨32, 4⟩] ++ hostProtocol [0x61])).engine.seq = .rest ∧
    (st Engine.reset ([.engine, .busRead ⟨32, 4⟩] ++ hostProtocol [0x61])).events.filter (fun ev => !ev.passive)
      = hostProtocol [0x61] := by decide
/-- PAD_B pending, as it is reached from the first of two padding blocks. -/
def ePadB : Engine := { eAt .padB with fin := .more }

theorem witness_StepKeepsInvariant : ePadB.Inv := by
  simp [Engine.Inv, Engine.InvStated, Engine.InvBusy, ePadB, eAt, eAccum, Engine.reset, hexEmpty]

end Witnesses

end Sys2Proof.Tests
end

section
/-! A bus access as the next event, and which accesses have no register (20_memory.md R43, R44). -/

namespace Sys2Proof.Machine

open Sys2Proof Host

/-- R44's grounds against R43's: a multiple of 4 above 0x3C is at least 0x40. -/
theorem access_wf_eq_false_iff (acc : Access) :
    acc.wf = false ↔ acc.bits ≠ 32 ∨ acc.offset % 4 ≠ 0 ∨ 0x40 ≤ acc.offset := by
  simp only [Access.wf, Bool.and_eq_false_iff, beq_eq_false_iff_ne, decide_eq_false_iff_not]
  omega

theorem accessReg_eq_none_iff (acc : Access) : accessReg acc = none ↔ acc.wf = false := by
  rw [← accessReg_isSome, Option.isSome_eq_false_iff, Option.isNone_iff_eq_none]

section AccessEvents

variable {s : State} {rest : List Event} {acc : Access} {w : Word}

theorem step_busRead (h : s.events = .busRead acc :: rest) : step s = busRead acc { s with events := rest } := by
  simp only [step, nextEvent, h, runEvent]

theorem step_busWrite (h : s.events = .busWrite acc w :: rest) :
    step s = busWrite acc w { s with events := rest } := by
  simp only [step, nextEvent, h, runEvent]

theorem busRead_of_not_wf (h : acc.wf = false) : busRead acc s = .refused (.accessNotAdmitted acc) := by
  simp only [busRead, (accessReg_eq_none_iff acc).2 h]

theorem busWrite_of_not_wf (h : acc.wf = false) : busWrite acc w s = .refused (.accessNotAdmitted acc) := by
  simp only [busWrite, (accessReg_eq_none_iff acc).2 h]

end AccessEvents

/-- Settles O41: an access R44 does not admit has no register, and a read or a write without a register is refused. -/
theorem unadmittedAccessIsRefused : Obligations.UnadmittedAccessIsRefused := by
  intro s rest acc w hbad hev
  have hwf : acc.wf = false := (access_wf_eq_false_iff acc).2 hbad
  rcases hev with hread | hwrite
  · rw [step_busRead hread, busRead_of_not_wf hwf]
  · rw [step_busWrite hwrite, busWrite_of_not_wf hwf]

end Sys2Proof.Machine
end

section
/-! The format rules of a command word (30_encoding.md R55, R56, R58), and what breaking one does to its decoding. -/

namespace Sys2Proof.Machine

open Sys2Proof Host

/-- The ways a word is not well formed: RSV not 0, an opcode above CLEAR's (R56), DATA not 0 without WRITE's opcode
(R58). -/
theorem commandWordWf_eq_false_iff (w : Word) :
    commandWordWf w = false ↔
      w.toNat / 65536 ≠ 0 ∨ 4 < w.toNat % 256 ∨ (w.toNat % 256 ≠ 2 ∧ w.toNat / 256 % 256 ≠ 0) := by
  simp only [commandWordWf, Bool.and_eq_false_iff, Bool.or_eq_false_iff, beq_eq_false_iff_ne,
    decide_eq_false_iff_not, not_le, or_assoc]

/-- Settles O4: a word that breaks either rule of R58 is not well formed, and the decoder answers an error to every
word that is not. -/
theorem reservedBitsMakeWordIllegal : Obligations.ReservedBitsMakeWordIllegal := by
  intro w
  constructor
  · intro hrsv
    exact (decodeCommand_error_iff w).2 ((commandWordWf_eq_false_iff w).2 (.inl hrsv))
  · intro hopcode hdata
    exact (decodeCommand_error_iff w).2 ((commandWordWf_eq_false_iff w).2 (.inr (.inr ⟨hopcode, hdata⟩)))

end Sys2Proof.Machine
end

section
/-! The padded message (40_padder_segmenter.md R70 to R73): its counts, its length field, and its bytes in the four
ranges of R73. -/

namespace Sys2Proof.Machine

open Sys2Proof

section Counts

variable (l : Nat)

theorem zeroCount_lt : zeroCount l < 64 := Nat.mod_lt _ (by decide)

/-- R72's condition on the zero count. -/
theorem add_zeroCount_mod : (l + 1 + zeroCount l) % 64 = 56 := by
  unfold zeroCount
  omega

/-- Two counts that meet R72's condition differ by a multiple of 64, and the zero count is below 64. -/
theorem zeroCount_le_of_mod {z : Nat} (h : (l + 1 + z) % 64 = 56) : zeroCount l ≤ z := by
  have hmod := add_zeroCount_mod l
  have hlt := zeroCount_lt l
  omega

theorem paddedLength_sub_eight : paddedLength l - 8 = l + 1 + zeroCount l := rfl

/-- The padded length is nb whole blocks: it is a multiple of 64, at least l + 9 and below l + 73. -/
theorem paddedLength_eq_blocks : paddedLength l = 64 * blockCount l := by
  have hmod := add_zeroCount_mod l
  have hlt := zeroCount_lt l
  unfold paddedLength blockCount
  omega

end Counts

/-- A byte of a 64-bit value, as a number (00_scope.md R13). -/
theorem byteOfDWord_toNat (v : DWord) (q : Nat) : (byteOfDWord v q).toNat = v.toNat / 2 ^ (8 * q) % 256 := by
  simp only [byteOfDWord, BitVec.extractLsb'_toNat, Nat.shiftRight_eq_div_pow]

@[simp] theorem le64bytes_length (v : DWord) : (le64bytes v).length = 8 := by simp [le64bytes]

theorem le64bytes_getElem? (v : DWord) {q : Nat} (hq : q < 8) : (le64bytes v)[q]? = some (byteOfDWord v q) := by
  simp [le64bytes, hq]

theorem pad_length (m : List Byte) : (pad m).length = paddedLength m.length := by
  simp only [pad, paddedLength, List.length_append, List.length_singleton, List.length_replicate, le64bytes_length]

/-- The padding before the length field ends where R73's last range begins. -/
theorem padFront_length (m : List Byte) :
    (m ++ [0x80] ++ List.replicate (zeroCount m.length) (0x00 : Byte)).length = paddedLength m.length - 8 := by
  simp only [paddedLength_sub_eight, List.length_append, List.length_singleton, List.length_replicate]

section PaddedBytes

variable (m : List Byte) {p : Nat}

theorem pad_getElem?_message (hp : p < m.length) : (pad m)[p]? = some (m.getD p 0) := by
  simp [pad, List.getElem?_append_left hp, hp]

theorem pad_getElem?_marker : (pad m)[m.length]? = some 0x80 := by
  simp [pad]

theorem pad_getElem?_zero (hlo : m.length < p) (hhi : p < paddedLength m.length - 8) : (pad m)[p]? = some 0 := by
  have hrep : p - (m ++ [0x80]).length < zeroCount m.length := by
    rw [paddedLength_sub_eight] at hhi
    rw [List.length_append, List.length_singleton]
    omega
  rw [pad, List.getElem?_append_left ((padFront_length m).symm ▸ hhi),
    List.getElem?_append_right (by simpa using hlo), List.getElem?_replicate, if_pos hrep]

theorem pad_getElem?_lengthField (hlo : paddedLength m.length - 8 ≤ p) (hhi : p < paddedLength m.length) :
    (pad m)[p]? =
      some (byteOfDWord (bitLength (BitVec.ofNat 64 m.length)) (p - (paddedLength m.length - 8))) := by
  rw [pad, List.getElem?_append_right ((padFront_length m).symm ▸ hlo), padFront_length,
    le64bytes_getElem? _ (by omega)]

end PaddedBytes

/-- Settles O36: the shift by 3 multiplies by 8, and reducing the length modulo 2^64 before that changes nothing. -/
theorem lengthFieldCountsBits : Obligations.LengthFieldCountsBits := by
  intro l
  calc (bitLength (BitVec.ofNat 64 l)).toNat
      = l % 2 ^ 64 * 2 ^ 3 % 2 ^ 64 := by
        rw [bitLength, BitVec.toNat_shiftLeft, BitVec.toNat_ofNat, Nat.shiftLeft_eq]
    _ = l * 8 % 2 ^ 64 := Nat.mod_mul_mod ..

/-- Settles O33, part by part from the facts about the counts. -/
theorem paddingIsLeastAndWholeBlocks : Obligations.PaddingIsLeastAndWholeBlocks := by
  intro l
  refine ⟨add_zeroCount_mod l, ?_, zeroCount_lt l, rfl, paddedLength_eq_blocks l, ?_⟩
  · intro z hz hmod
    exact absurd (zeroCount_le_of_mod l hmod) (Nat.not_le.2 hz)
  · rintro m rfl
    exact pad_length m

/-- Settles O34: a lemma for each of R73's four ranges, and O36 for the value of the length field. -/
theorem paddedByteByPosition : Obligations.PaddedByteByPosition := by
  intro m p hp
  split_ifs with hmsg hmark hzero
  · rw [pad_getElem?_message m hmsg, Option.map_some]
  · rw [hmark, pad_getElem?_marker]
    rfl
  · rw [pad_getElem?_zero m (by omega) hzero]
    rfl
  · rw [pad_getElem?_lengthField m (Nat.not_lt.1 hzero) hp, Option.map_some, byteOfDWord_toNat,
      lengthFieldCountsBits, Nat.mul_comm]

end Sys2Proof.Machine
end

section
/-! The modular adder and the rotator (42_modular_adder.md R85, R87), and the range of the rotate amounts
(43_compression.md R101). -/

namespace Sys2Proof.Machine

open Sys2Proof

/-- ADD32 on the unsigned values: the carry out of bit 31 is what the modulus takes away (R85). -/
theorem add32_toNat (x y : Word) : (add32 x y).toNat = (x.toNat + y.toNat) % 2 ^ 32 :=
  BitVec.toNat_add x y

/-- Settles O29, by the value of a sum of two words. -/
theorem additionIsModular : Obligations.AdditionIsModular :=
  add32_toNat

section Rotation

variable (x : Word) {s n : Nat}

/-- R87's two shifts are the library's rotation for every amount below the width. -/
theorem rotl32_eq_rotateLeft (hs : s ≤ 31) : rotl32 x s = x.rotateLeft s := by
  rw [BitVec.rotateLeft_def, Nat.mod_eq_of_lt (by omega), rotl32]

/-- The bits the rotation brings round from the top of the word. -/
theorem rotl32_getLsbD_of_lt (hs : s ≤ 31) (hn : n < s) : (rotl32 x s).getLsbD n = x.getLsbD (n + (32 - s)) := by
  rw [rotl32_eq_rotateLeft x hs, BitVec.getLsbD_rotateLeft_of_le (by omega), decide_eq_true hn, cond_true,
    Nat.add_comm]

/-- The bits the rotation only moves up. -/
theorem rotl32_getLsbD_of_le (hs : s ≤ 31) (hsn : s ≤ n) (hn : n < 32) :
    (rotl32 x s).getLsbD n = x.getLsbD (n - s) := by
  rw [rotl32_eq_rotateLeft x hs, BitVec.getLsbD_rotateLeft_of_le (by omega), decide_eq_false (Nat.not_lt.2 hsn),
    cond_false, decide_eq_true hn, Bool.true_and]

/-- R87's index, with n - s written as n + (32 - s) modulo 32. -/
theorem rotl32_getLsbD (hs : s ≤ 31) (hn : n < 32) :
    (rotl32 x s).getLsbD n = x.getLsbD ((n + (32 - s)) % 32) := by
  rcases Nat.lt_or_ge n s with hlt | hge
  · have hindex : (n + (32 - s)) % 32 = n + (32 - s) := Nat.mod_eq_of_lt (by omega)
    rw [rotl32_getLsbD_of_lt x hs hlt, hindex]
  · have hindex : (n + (32 - s)) % 32 = n - s := by omega
    rw [rotl32_getLsbD_of_le x hs hge hn, hindex]

end Rotation

@[simp] theorem sRound_length (r : Nat) : (sRound r).length = 4 := by
  unfold sRound
  split_ifs <;> rfl

/-- The amounts of each of R101's four cycles are in 4..23. -/
theorem sRound_bounds (r : Nat) : ∀ a ∈ sRound r, 4 ≤ a ∧ a ≤ 23 := by
  unfold sRound
  split_ifs <;> decide

/-- An entry of S is one of its round's four amounts, never the default of the lookup. -/
theorem sTable_mem_sRound (i : BitVec 6) : sTable i ∈ sRound (i.toNat / 16) := by
  have hcol : i.toNat % 4 < (sRound (i.toNat / 16)).length := by
    rw [sRound_length]
    exact Nat.mod_lt _ (by decide)
  rw [sTable, List.getD_eq_getElem _ _ hcol]
  exact List.getElem_mem hcol

/-- Settles O30: the bits brought round and the bits moved up, and the amounts of the four cycles. -/
theorem rotationMovesEachBit : Obligations.RotationMovesEachBit :=
  ⟨fun x _ _ hs hn => rotl32_getLsbD x hs hn, fun i => sRound_bounds _ _ (sTable_mem_sRound i)⟩

end Sys2Proof.Machine
end

section
/-! The four round functions, bit by bit (43_compression.md R96 to R99). -/

namespace Sys2Proof.Machine

open Sys2Proof

/-- NOT32 is the library's complement: the model's constant is the word of all ones. -/
theorem not32_eq_not (x : Word) : not32 x = ~~~x :=
  BitVec.xor_allOnes

theorem not32_getLsbD (x : Word) {n : Nat} (hn : n < 32) : (not32 x).getLsbD n = !x.getLsbD n := by
  rw [not32_eq_not, BitVec.getLsbD_not, decide_eq_true hn, Bool.true_and]

section RoundFunctions

variable (b c d : Word) {n : Nat}

/-- F is a choice by b: only one of its two conjunctions can be 1 in a bit (R96). -/
theorem roundF_getLsbD (hn : n < 32) :
    (roundF b c d).getLsbD n = if b.getLsbD n then c.getLsbD n else d.getLsbD n := by
  rw [roundF, BitVec.getLsbD_or, BitVec.getLsbD_and, BitVec.getLsbD_and, not32_getLsbD b hn]
  cases b.getLsbD n with
  | true => simp
  | false => simp

/-- G is F with its arguments turned: d chooses between b and c (R97). -/
theorem roundG_eq_roundF : roundG b c d = roundF d b c := by
  rw [roundG, roundF, BitVec.and_comm b d, BitVec.and_comm c (not32 d)]

theorem roundG_getLsbD (hn : n < 32) :
    (roundG b c d).getLsbD n = if d.getLsbD n then b.getLsbD n else c.getLsbD n := by
  rw [roundG_eq_roundF, roundF_getLsbD d b c hn]

theorem roundH_getLsbD : (roundH b c d).getLsbD n = ((b.getLsbD n ^^ c.getLsbD n) ^^ d.getLsbD n) := by
  rw [roundH, BitVec.getLsbD_xor, BitVec.getLsbD_xor]

theorem roundI_getLsbD (hn : n < 32) :
    (roundI b c d).getLsbD n = (c.getLsbD n ^^ (b.getLsbD n || !d.getLsbD n)) := by
  rw [roundI, BitVec.getLsbD_xor, BitVec.getLsbD_or, not32_getLsbD d hn]

end RoundFunctions

/-- Settles O31, by the bits of each round function. -/
theorem roundFunctionsPerBit : Obligations.RoundFunctionsPerBit :=
  fun b c d _ hn =>
    ⟨roundF_getLsbD b c d hn, roundG_getLsbD b c d hn, roundH_getLsbD b c d, roundI_getLsbD b c d hn⟩

end Sys2Proof.Machine
end

section
/-! A bus write by the register it names (45_host_commands.md R134): CMD executes the word, every other register
ignores it. -/

namespace Sys2Proof.Machine

open Sys2Proof Host

section BusWrites

variable {s : State} {acc : Access} {w : Word} {r : Reg}

theorem busWrite_of_reg_cmd (h : accessReg acc = some .cmd) : busWrite acc w s = writeCommand w s := by
  simp only [busWrite, h]

theorem busWrite_of_reg_ne_cmd (h : accessReg acc = some r) (hr : r ≠ .cmd) : busWrite acc w s = .next s := by
  simp only [busWrite, h]

/-- CMD is the only register a write acts on, and only offset 0 names it. -/
theorem busWrite_of_offset_ne_zero (hwf : acc.wf = true) (hoff : acc.offset ≠ 0) : busWrite acc w s = .next s := by
  obtain ⟨r, hreg⟩ := Option.isSome_iff_exists.1 ((accessReg_isSome acc).trans hwf)
  have hr : r ≠ .cmd := by
    rintro rfl
    exact hoff (congrArg Access.offset (accessReg_cmd hreg))
  exact busWrite_of_reg_ne_cmd hreg hr

end BusWrites

/-- Settles O40: the write at offset 0 names CMD, and an admitted one at 0x04..0x3C names another register. -/
theorem writesElsewhereAreIgnored : Obligations.WritesElsewhereAreIgnored := by
  intro s rest off w hev
  rw [step_busWrite hev]
  constructor
  · rintro rfl
    exact busWrite_of_reg_cmd rfl
  · intro haligned hlo hhi
    have hwf : Access.wf ⟨32, off⟩ = true := by simp [Access.wf, haligned, hhi]
    have hoff : off ≠ 0 := by omega
    exact busWrite_of_offset_ne_zero hwf hoff

end Sys2Proof.Machine
end

section
/-! STEP and FOLD where seq names them (46_sequencer.md R147, R148), and one compression step in the terms of
43_compression.md R95 to R103: the round function by the range of the step index, the rotation by S. -/

namespace Sys2Proof.Machine

open Sys2Proof Host

section RoundFn

variable {i : BitVec 6} (b c d : Word)

theorem roundFn_of_round1 (h : i.toNat < 16) : roundFn i b c d = (b &&& c) ||| (~~~b &&& d) := by
  rw [roundFn, if_pos h, roundF, not32_eq_not]

theorem roundFn_of_round2 (hlo : 16 ≤ i.toNat) (hhi : i.toNat < 32) :
    roundFn i b c d = (b &&& d) ||| (c &&& ~~~d) := by
  rw [roundFn, if_neg (Nat.not_lt.2 hlo), if_pos hhi, roundG, not32_eq_not]

theorem roundFn_of_round3 (hlo : 32 ≤ i.toNat) (hhi : i.toNat < 48) : roundFn i b c d = b ^^^ c ^^^ d := by
  rw [roundFn, if_neg (by omega), if_neg (Nat.not_lt.2 hlo), if_pos hhi, roundH]

theorem roundFn_of_round4 (h : 48 ≤ i.toNat) : roundFn i b c d = c ^^^ (b ||| ~~~d) := by
  rw [roundFn, if_neg (by omega), if_neg (by omega), if_neg (Nat.not_lt.2 h), roundI, not32_eq_not]

end RoundFn

/-- R103's new b, with the library's addition and rotation: every amount of S is below the width. -/
theorem stepQuad_b (k : Vector Word 16) (i : BitVec 6) (q : Quad) :
    (stepQuad k i q).b =
      q.b + (q.a + roundFn i q.b q.c q.d + k[msgIndex i] + tTable[i.toNat]).rotateLeft (sTable i) := by
  have hamount : sTable i ≤ 31 := (sTable_bounds i).2.trans (by decide)
  simp only [stepQuad, rotl32_eq_rotateLeft _ hamount, add32x4, add32]

section SixBitCounts

variable {x : BitVec 6}

/-- The largest step index or buffer count, known by its value. -/
theorem sixBit_eq_last_iff (x : BitVec 6) : x = 63 ↔ x.toNat = 63 :=
  BitVec.toNat_inj.symm

theorem sixBit_lt_of_ne_last (h : x ≠ 63) : x.toNat < 63 :=
  Nat.lt_of_le_of_ne (Nat.le_of_lt_succ x.isLt) (mt (sixBit_eq_last_iff x).2 h)

/-- Below 63 the step index and the buffer count go up without wrapping round. -/
theorem sixBit_succ_toNat (h : x.toNat < 63) : (x + 1).toNat = x.toNat + 1 :=
  BitVec.toNat_add_of_lt (Nat.succ_lt_succ h)

end SixBitCounts

section EngineStep

variable {e : Engine}

/-- STEP before the last one: only the working registers and the index change. -/
theorem stepEngine_of_lt (h : e.i.toNat < 63) :
    stepEngine e = { e with work := stepQuad e.k e.i e.work, i := e.i + 1 } :=
  if_neg fun hlast => h.ne ((sixBit_eq_last_iff e.i).1 hlast)

/-- The last STEP: the index stays and FOLD is next. -/
theorem stepEngine_of_last (h : e.i = 63) :
    stepEngine e = { e with work := stepQuad e.k e.i e.work, seq := .fold } :=
  if_pos h

theorem stepEngine_frame :
    stepEngine e =
      { e with work := (stepEngine e).work, i := (stepEngine e).i, seq := (stepEngine e).seq } := by
  unfold stepEngine
  split <;> rfl

end EngineStep

section Exec

variable {s : State}

theorem exec_step_eq (h : s.engine.seq = .step) : exec .step s = .next (s.onEngine stepEngine) :=
  microOp_of_enabled h

theorem exec_fold_eq (h : s.engine.seq = .fold) : exec .fold s = .next (s.onEngine foldEngine) :=
  microOp_of_enabled h

end Exec

/-- Settles O23: f is the round function of the step index, whose range is one of four, and the index is the last or
before it. -/
theorem stepIsOneCompressionStep : Obligations.StepIsOneCompressionStep := by
  intro s hseq
  have hwork : (s.onEngine stepEngine).engine.work = stepQuad s.engine.k s.engine.i s.engine.work :=
    stepEngine_work s.engine
  refine ⟨s.onEngine stepEngine, roundFn s.engine.i s.engine.work.b s.engine.work.c s.engine.work.d,
    exec_step_eq hseq, roundFn_of_round1 _ _ _, roundFn_of_round2 _ _ _, roundFn_of_round3 _ _ _,
    roundFn_of_round4 _ _ _, congrArg Quad.a hwork, congrArg Quad.c hwork, congrArg Quad.d hwork,
    (congrArg Quad.b hwork).trans (stepQuad_b _ _ _), ?_, ?_, ?_⟩
  · intro hlt
    rw [onEngine_engine, stepEngine_of_lt hlt]
    exact ⟨sixBit_succ_toNat hlt, hseq⟩
  · intro hlast
    rw [onEngine_engine, stepEngine_of_last ((sixBit_eq_last_iff _).2 hlast)]
    exact ⟨hlast, rfl⟩
  · exact congrArg (fun e => { s with engine := e }) stepEngine_frame

/-- Settles O24: the fold adds word by word, and each value of fin has its successor. -/
theorem foldAddsIntoState : Obligations.FoldAddsIntoState := by
  intro s hseq
  have hnext : (s.onEngine foldEngine).engine.seq = afterFold s.engine.fin := foldEngine_seq s.engine
  exact ⟨s.onEngine foldEngine, exec_fold_eq hseq, add32_toNat _ _, add32_toNat _ _, add32_toNat _ _,
    add32_toNat _ _, rfl, fun hnone => hnext.trans (congrArg afterFold hnone),
    fun hmore => hnext.trans (congrArg afterFold hmore), fun hlast => hnext.trans (congrArg afterFold hlast), rfl⟩

end Sys2Proof.Machine
end

section
/-! The block sub-program (46_sequencer.md R149): the engine's turns by the micro-operation seq names, the run of the
64 STEPs, and the 66 turns from LOAD as one change of the engine. -/

namespace Sys2Proof.Machine

open Sys2Proof Host

section Turns

variable {e : Engine}

theorem microEffect_load (h : e.seq = .load) : microEffect e = loadEngine e := by rw [microEffect, h]
theorem microEffect_step (h : e.seq = .step) : microEffect e = stepEngine e := by rw [microEffect, h]
theorem microEffect_fold (h : e.seq = .fold) : microEffect e = foldEngine e := by rw [microEffect, h]
theorem microEffect_padA (h : e.seq = .padA) : microEffect e = padAEngine e := by rw [microEffect, h]
theorem microEffect_padB (h : e.seq = .padB) : microEffect e = padBEngine e := by rw [microEffect, h]
theorem microEffect_format (h : e.seq = .format) : microEffect e = formatEngine e := by rw [microEffect, h]

end Turns

/-- The first n turns from the first STEP, the last one not among them, are the first n steps of the block. -/
theorem microEffect_iterate_step {e : Engine} (hseq : e.seq = .step) (hi : e.i = 0) {n : Nat} (hn : n ≤ 63) :
    microEffect^[n] e = { e with work := runSteps e.k n e.work, i := BitVec.ofNat 6 n } := by
  induction n with
  | zero => exact congrArg (fun i => { e with i := i }) hi
  | succ n ih =>
    have hlt : (BitVec.ofNat 6 n).toNat < 63 := by
      rw [BitVec.toNat_ofNat]
      omega
    calc microEffect^[n + 1] e
        = microEffect { e with work := runSteps e.k n e.work, i := BitVec.ofNat 6 n } := by
          rw [Function.iterate_succ_apply', ih (by omega)]
      _ = stepEngine { e with work := runSteps e.k n e.work, i := BitVec.ofNat 6 n } := microEffect_step hseq
      _ = { e with work := runSteps e.k (n + 1) e.work, i := BitVec.ofNat 6 n + 1 } := stepEngine_of_lt hlt
      _ = { e with work := runSteps e.k (n + 1) e.work, i := BitVec.ofNat 6 (n + 1) } := by
          rw [BitVec.ofNat_add]
          rfl

/-- All 64 turns of a block's steps: the last one leaves the index at 63 and hands over to FOLD. -/
theorem microEffect_iterate_all_steps {e : Engine} (hseq : e.seq = .step) (hi : e.i = 0) :
    microEffect^[64] e = { e with work := runSteps e.k 64 e.work, i := 63, seq := .fold } :=
  calc microEffect^[64] e
      = microEffect { e with work := runSteps e.k 63 e.work, i := BitVec.ofNat 6 63 } := by
        rw [Function.iterate_succ_apply', microEffect_iterate_step hseq hi le_rfl]
    _ = stepEngine { e with work := runSteps e.k 63 e.work, i := BitVec.ofNat 6 63 } := microEffect_step hseq
    _ = { e with work := runSteps e.k 64 e.work, i := 63, seq := .fold } := stepEngine_of_last rfl

/-- R149 as one change of the engine: LOAD, the 64 STEPs and FOLD. -/
theorem microEffect_iterate_block {e : Engine} (hseq : e.seq = .load) :
    microEffect^[66] e =
      { e with
        srf := compress e.srf e.buf
        work := runSteps (decodeBlock e.buf) 64 e.srf
        k := decodeBlock e.buf
        i := 0
        seq := afterFold e.fin } := by
  rw [Function.iterate_succ_apply, microEffect_load hseq, Function.iterate_succ_apply',
    microEffect_iterate_all_steps rfl rfl, microEffect_fold rfl]
  rfl

/-- Settles O50: the turns change the engine alone, and all 66 of them as `microEffect_iterate_block` says. -/
theorem blockRunsInSixtySixMicroOps : Obligations.BlockRunsInSixtySixMicroOps := by
  intro s hseq
  rw [engineTurns_eq, State.onEngine, microEffect_iterate_block hseq]
  exact ⟨_, rfl, rfl, congrArg afterFold, congrArg afterFold, congrArg afterFold, rfl, rfl⟩

end Sys2Proof.Machine
end

section
/-! The micro-operations left to do (46_sequencer.md R155): their count by the micro-operation pending, what a turn and
what an admitted bus access do to it. -/

namespace Sys2Proof.Machine

open Sys2Proof Host

section Remaining

variable {e : Engine}

theorem remaining_rest (h : e.seq = .rest) : e.remaining = 0 := by rw [Engine.remaining, h]
theorem remaining_load (h : e.seq = .load) : e.remaining = 66 + afterFoldCount e.fin := by rw [Engine.remaining, h]
theorem remaining_step (h : e.seq = .step) : e.remaining = 65 - e.i.toNat + afterFoldCount e.fin := by
  rw [Engine.remaining, h]
theorem remaining_fold (h : e.seq = .fold) : e.remaining = 1 + afterFoldCount e.fin := by rw [Engine.remaining, h]
theorem remaining_padA (h : e.seq = .padA) : e.remaining = if e.cnt.toNat ≤ 55 then 68 else 135 := by
  rw [Engine.remaining, h]
theorem remaining_padB (h : e.seq = .padB) : e.remaining = 68 := by rw [Engine.remaining, h]
theorem remaining_format (h : e.seq = .format) : e.remaining = 1 := by rw [Engine.remaining, h]

/-- A refused command leaves the work as it is: the count reads none of the error bits. -/
@[simp] theorem raise_remaining (b : ErrorBit) : (e.raise b).remaining = e.remaining := by
  simp only [Engine.remaining, raise_seq, raise_fin, raise_i, raise_cnt]

/-- A busy engine has at least one micro-operation left. -/
theorem remaining_pos (h : e.seq ≠ .rest) : 0 < e.remaining := by
  cases hseq : e.seq with
  | rest => exact absurd hseq h
  | load => rw [remaining_load hseq]; omega
  | step => rw [remaining_step hseq]; omega
  | fold => rw [remaining_fold hseq]; omega
  | padA => rw [remaining_padA hseq]; split_ifs <;> decide
  | padB => rw [remaining_padB hseq]; decide
  | format => rw [remaining_format hseq]; decide

theorem remaining_eq_zero_iff : e.remaining = 0 ↔ e.seq = .rest :=
  ⟨fun hzero => by_contra fun hbusy => (remaining_pos hbusy).ne' hzero, remaining_rest⟩

/-- The step index is at most 63, so LOAD's 66 count down to FOLD's 1 without being cut off at 0. -/
theorem stepEngine_remaining (h : e.seq = .step) : (stepEngine e).remaining + 1 = e.remaining := by
  rw [remaining_step h]
  by_cases hlast : e.i = 63
  · rw [remaining_fold (by rw [stepEngine_seq, if_pos hlast]), stepEngine_fin, hlast]
    exact Nat.add_right_comm 1 _ 1
  · rw [remaining_step (by rw [stepEngine_seq, if_neg hlast, h]), stepEngine_i, if_neg hlast,
      sixBit_succ_toNat (sixBit_lt_of_ne_last hlast), stepEngine_fin]
    omega

/-- What follows the FOLD is what `afterFoldCount` says. -/
theorem foldEngine_remaining : (foldEngine e).remaining = afterFoldCount e.fin := by
  cases hfin : e.fin with
  | none => exact remaining_rest ((foldEngine_seq e).trans (congrArg afterFold hfin))
  | more => exact remaining_padB ((foldEngine_seq e).trans (congrArg afterFold hfin))
  | last => exact remaining_format ((foldEngine_seq e).trans (congrArg afterFold hfin))

theorem padAEngine_remaining (h : e.seq = .padA) : (padAEngine e).remaining + 1 = e.remaining := by
  rw [remaining_padA h, remaining_load (padAEngine_seq e), padAEngine_fin]
  split_ifs <;> rfl

/-- Each turn of a busy engine does one micro-operation. -/
theorem microEffect_remaining (h : e.seq ≠ .rest) : (microEffect e).remaining + 1 = e.remaining := by
  cases hseq : e.seq with
  | rest => exact absurd hseq h
  | load =>
    rw [microEffect_load hseq, remaining_load hseq, remaining_step (loadEngine_seq e), loadEngine_i, loadEngine_fin]
    exact Nat.add_right_comm 65 _ 1
  | step => rw [microEffect_step hseq, stepEngine_remaining hseq]
  | fold => rw [microEffect_fold hseq, remaining_fold hseq, foldEngine_remaining, Nat.add_comm]
  | padA => rw [microEffect_padA hseq, padAEngine_remaining hseq]
  | padB => rw [microEffect_padB hseq, remaining_padB hseq, remaining_load (padBEngine_seq e), padBEngine_fin]; rfl
  | format => rw [microEffect_format hseq, remaining_format hseq, remaining_rest (formatEngine_seq e)]

end Remaining

section BusyAccesses

variable {s : State} {acc : Access} {w : Word}

/-- While busy any command word is discarded with ERR_BUSY (60_exceptions.md R166). -/
theorem commandEffect_of_busy {e : Engine} (h : e.seq ≠ .rest) : commandEffect w e = e.raise .busy := by
  unfold commandEffect
  split <;> rw [attempt_of_busy h]

/-- An admitted read changes nothing of the engine (45_host_commands.md R133). -/
theorem busRead_keeps_engine (hwf : acc.wf = true) : ∃ t, busRead acc s = .next t ∧ t.engine = s.engine := by
  obtain ⟨r, hreg⟩ := Option.isSome_iff_exists.1 ((accessReg_isSome acc).trans hwf)
  exact ⟨{ s with readLog := readReg s.engine r :: s.readLog }, by simp only [busRead, hreg], rfl⟩

/-- An admitted write to a busy engine: at CMD it sets ERR_BUSY, elsewhere it does nothing. -/
theorem busWrite_of_busy (hbusy : s.engine.seq ≠ .rest) (hwf : acc.wf = true) :
    ∃ t, busWrite acc w s = .next t ∧ (t.engine = s.engine ∨ t.engine = s.engine.raise .busy) := by
  obtain ⟨r, hreg⟩ := Option.isSome_iff_exists.1 ((accessReg_isSome acc).trans hwf)
  by_cases hcmd : r = .cmd
  · subst hcmd
    exact ⟨_, (busWrite_of_reg_cmd hreg).trans (writeCommand_eq w s), .inr (commandEffect_of_busy hbusy)⟩
  · exact ⟨s, busWrite_of_reg_ne_cmd hreg hcmd, .inl rfl⟩

end BusyAccesses

/-- Settles O51: the counts of the two commands, one micro-operation a turn, and the accesses of a busy engine. -/
theorem workOfOneCommandIsBounded : Obligations.WorkOfOneCommandIsBounded := by
  refine ⟨?write, ?finish, fun _ => remaining_eq_zero_iff, ?turn, ?access⟩
  case write =>
    intro s x hrest hphase hfull
    have hcnt : s.engine.cnt = 63 := BitVec.eq_of_toNat_eq hfull
    refine ⟨_, exec_write_eq hrest hphase x, ?_⟩
    rw [onEngine_engine, remaining_load (by rw [writeEngine_seq, if_pos hcnt]), writeEngine_fin, if_pos hcnt]
    rfl
  case finish =>
    intro s hrest hphase
    exact ⟨_, exec_finish_eq hrest hphase, remaining_padA (finishEngine_seq _)⟩
  case turn =>
    intro s hbusy
    exact ⟨_, engineTurn_eq s, microEffect_remaining hbusy⟩
  case access =>
    intro s acc w rest hbusy hwf hev
    rcases hev with hread | hwrite
    · obtain ⟨t, ht, hengine⟩ := busRead_keeps_engine (s := { s with events := rest }) hwf
      exact ⟨t, (step_busRead hread).trans ht, congrArg Engine.remaining hengine⟩
    · obtain ⟨t, ht, hsame | hraise⟩ := busWrite_of_busy (s := { s with events := rest }) (w := w) hbusy hwf
      · exact ⟨t, (step_busWrite hwrite).trans ht, congrArg Engine.remaining hsame⟩
      · exact ⟨t, (step_busWrite hwrite).trans ht, (congrArg Engine.remaining hraise).trans (raise_remaining _)⟩

end Sys2Proof.Machine
end

section
/-! The invariant by the sequencer state (46_sequencer.md R156): `Engine.Inv` read as one predicate for each value of
seq, every event's effect on it, and the induction over the events from reset. -/

namespace Sys2Proof.Machine

open Sys2Proof Host

/-- The invariant at REST, by the phase. -/
def Engine.InvRest (e : Engine) : Prop :=
  e.i = 0 ∧ e.fin = .none ∧
  match e.phase with
  | .idle => e.len = 0 ∧ e.cnt = 0 ∧ e.srf = Quad.zero ∧ e.hex = hexEmpty
  | .accum => e.cnt.toNat = e.len.toNat % 64 ∧ e.hex = hexEmpty
  | .final => False
  | .done => e.cnt = 0 ∧ e.hex = formatState e.srf

/-- What holds while a block is in flight, by fin: which block of the message it is. -/
def Engine.InvBlock (e : Engine) : Prop :=
  e.cnt = 0 ∧ e.hex = hexEmpty ∧
  match e.fin with
  | .none => e.phase = .accum ∧ e.len.toNat % 64 = 0
  | .more => e.phase = .accum
  | .last => e.phase = .final

/-- The invariant of the machine where the micro-operation pending is `q`. -/
def Engine.InvAt (e : Engine) (q : Seq) : Prop :=
  match q with
  | .rest => e.InvRest
  | .load => e.i = 0 ∧ e.InvBlock
  | .step => e.InvBlock
  | .fold => e.i = 63 ∧ e.InvBlock
  | .padA => e.i = 0 ∧ e.fin = .none ∧ e.phase = .accum ∧ e.cnt.toNat = e.len.toNat % 64 ∧ e.hex = hexEmpty
  | .padB => e.i = 0 ∧ e.fin = .more ∧ e.phase = .accum ∧ e.cnt = 0 ∧ e.hex = hexEmpty
  | .format => e.i = 0 ∧ e.fin = .last ∧ e.phase = .final ∧ e.cnt = 0 ∧ e.hex = hexEmpty

/-- `Engine.InvAt` says the model's invariant: once seq is known, and with it the phase at REST or fin in a block, each
clause of R156 and of `Engine.InvBusy` is void or an equation. -/
theorem inv_iff_invAt (e : Engine) : e.Inv ↔ e.InvAt e.seq := by
  unfold Engine.Inv Engine.InvStated Engine.InvBusy Engine.InvAt
  cases hseq : e.seq with
  | rest =>
    unfold Engine.InvRest
    cases hphase : e.phase <;> aesop
  | load =>
    unfold Engine.InvBlock
    cases hfin : e.fin <;> aesop
  | step =>
    unfold Engine.InvBlock
    cases hfin : e.fin <;> aesop
  | fold =>
    unfold Engine.InvBlock
    cases hfin : e.fin <;> aesop
  | padA => aesop
  | padB => aesop
  | format => aesop

section Effects

variable {e : Engine} {q : Seq}

theorem invAt_of_inv (h : e.Inv) (hseq : e.seq = q) : e.InvAt q :=
  hseq ▸ (inv_iff_invAt e).1 h

theorem inv_of_invAt (hseq : e.seq = q) (h : e.InvAt q) : e.Inv :=
  (inv_iff_invAt e).2 (hseq ▸ h)

theorem reset_inv : Engine.reset.Inv :=
  inv_of_invAt (q := .rest) rfl ⟨rfl, rfl, rfl, rfl, rfl, rfl⟩

/-- A refused command keeps the invariant, which reads no error bit. -/
theorem raise_inv (b : ErrorBit) (h : e.Inv) : (e.raise b).Inv := by
  simpa [Engine.Inv, Engine.InvStated, Engine.InvBusy] using h

theorem startEngine_inv (hrest : e.seq = .rest) : (startEngine e).Inv :=
  inv_of_invAt (q := .rest) hrest ⟨rfl, rfl, rfl, rfl⟩

/-- What the invariant says of an open computation at REST. -/
theorem inv_accum (h : e.Inv) (hrest : e.seq = .rest) (hphase : e.phase = .accum) :
    e.i = 0 ∧ e.fin = .none ∧ e.cnt.toNat = e.len.toNat % 64 ∧ e.hex = hexEmpty := by
  obtain ⟨hi, hfin, haccum⟩ := invAt_of_inv h hrest
  rw [hphase] at haccum
  exact ⟨hi, hfin, haccum⟩

theorem finishEngine_inv (h : e.Inv) (hrest : e.seq = .rest) (hphase : e.phase = .accum) :
    (finishEngine e).Inv := by
  obtain ⟨hi, hfin, hcnt, hhex⟩ := inv_accum h hrest hphase
  exact inv_of_invAt (finishEngine_seq e) ⟨hi, hfin, hphase, hcnt, hhex⟩

/-- One byte more, modulo the size of a block: L wraps at a multiple of 64. -/
theorem len_succ_mod (len : DWord) : (len + 1).toNat % 64 = (len.toNat + 1) % 64 := by
  rw [BitVec.toNat_add]
  exact Nat.mod_mod_of_dvd _ (by decide)

/-- WRITE: the count follows L; when it comes to 64, L is a multiple of the block's size. -/
theorem writeEngine_inv (x : Byte) (h : e.Inv) (hrest : e.seq = .rest) (hphase : e.phase = .accum) :
    (writeEngine x e).Inv := by
  obtain ⟨hi, hfin, hcnt, hhex⟩ := inv_accum h hrest hphase
  have hlen := len_succ_mod e.len
  unfold writeEngine
  split_ifs with hfull
  · have hlast : e.cnt.toNat = 63 := (sixBit_eq_last_iff _).1 hfull
    have hblock : (e.len + 1).toNat % 64 = 0 := by omega
    exact inv_of_invAt (q := .load) rfl ⟨hi, rfl, hhex, hphase, hblock⟩
  · have hlt := sixBit_lt_of_ne_last hfull
    have hcount : (e.cnt + 1).toNat = (e.len + 1).toNat % 64 := by
      rw [sixBit_succ_toNat hlt]
      omega
    refine inv_of_invAt (q := .rest) hrest ⟨hi, hfin, ?_⟩
    rw [hphase]
    exact ⟨hcount, hhex⟩

theorem loadEngine_inv (h : e.Inv) (hseq : e.seq = .load) : (loadEngine e).Inv := by
  obtain ⟨-, hblock⟩ := invAt_of_inv h hseq
  exact inv_of_invAt (loadEngine_seq e) hblock

theorem stepEngine_inv (h : e.Inv) (hseq : e.seq = .step) : (stepEngine e).Inv := by
  have hblock : e.InvBlock := invAt_of_inv h hseq
  unfold stepEngine
  split_ifs with hlast
  · exact inv_of_invAt (q := .fold) rfl ⟨hlast, hblock⟩
  · exact inv_of_invAt (q := .step) hseq hblock

/-- FOLD hands over by fin: each value of it meets the invariant of its own successor. -/
theorem foldEngine_inv (h : e.Inv) (hseq : e.seq = .fold) : (foldEngine e).Inv := by
  obtain ⟨-, hcnt, hhex, hblock⟩ := invAt_of_inv h hseq
  refine inv_of_invAt (foldEngine_seq e) ?_
  cases hfin : e.fin with
  | none =>
    rw [hfin] at hblock
    obtain ⟨hphase, hlen⟩ := hblock
    refine ⟨rfl, hfin, ?_⟩
    rw [foldEngine_phase, hphase]
    exact ⟨(congrArg BitVec.toNat hcnt).trans hlen.symm, hhex⟩
  | more =>
    rw [hfin] at hblock
    exact ⟨rfl, hfin, hblock, hcnt, hhex⟩
  | last =>
    rw [hfin] at hblock
    exact ⟨rfl, hfin, hblock, hcnt, hhex⟩

theorem padAEngine_inv (h : e.Inv) (hseq : e.seq = .padA) : (padAEngine e).Inv := by
  obtain ⟨hi, -, hphase, -, hhex⟩ := invAt_of_inv h hseq
  unfold padAEngine
  split_ifs
  · exact inv_of_invAt (q := .load) rfl ⟨hi, rfl, hhex, rfl⟩
  · exact inv_of_invAt (q := .load) rfl ⟨hi, rfl, hhex, hphase⟩

theorem padBEngine_inv (h : e.Inv) (hseq : e.seq = .padB) : (padBEngine e).Inv := by
  obtain ⟨hi, -, -, hcnt, hhex⟩ := invAt_of_inv h hseq
  unfold padBEngine
  exact inv_of_invAt (q := .load) rfl ⟨hi, hcnt, hhex, rfl⟩

theorem formatEngine_inv (h : e.Inv) (hseq : e.seq = .format) : (formatEngine e).Inv := by
  obtain ⟨hi, -, -, hcnt, -⟩ := invAt_of_inv h hseq
  exact inv_of_invAt (formatEngine_seq e) ⟨hi, rfl, hcnt, rfl⟩

/-- A turn of the engine keeps the invariant, whatever seq names. -/
theorem microEffect_inv (h : e.Inv) : (microEffect e).Inv := by
  cases hseq : e.seq with
  | rest => rwa [microEffect, hseq]
  | load => exact microEffect_load hseq ▸ loadEngine_inv h hseq
  | step => exact microEffect_step hseq ▸ stepEngine_inv h hseq
  | fold => exact microEffect_fold hseq ▸ foldEngine_inv h hseq
  | padA => exact microEffect_padA hseq ▸ padAEngine_inv h hseq
  | padB => exact microEffect_padB hseq ▸ padBEngine_inv h hseq
  | format => exact microEffect_format hseq ▸ formatEngine_inv h hseq

end Effects

/-- A command word keeps the invariant, whatever the word and the state it meets. -/
theorem commandEffect_inv {e : Engine} (w : Word) (h : e.Inv) : (commandEffect w e).Inv := by
  rcases commandEffect_cases w e with
    ⟨-, heq⟩ | ⟨-, -, heq⟩ | ⟨-, -, -, heq⟩ | ⟨-, -, heq⟩ | ⟨hrest, -, heq⟩ | ⟨-, -, heq⟩ |
    ⟨hrest, hphase, -, heq⟩ | ⟨hrest, hphase, -, -, heq⟩
  · exact heq ▸ raise_inv .busy h
  · exact heq ▸ raise_inv .opc h
  · exact heq ▸ raise_inv .seq h
  · rwa [heq]
  · exact heq ▸ startEngine_inv hrest
  · exact heq ▸ reset_inv
  · exact heq ▸ finishEngine_inv h hrest hphase
  · exact heq ▸ writeEngine_inv _ h hrest hphase

/-- Every step keeps the invariant. -/
theorem step_inv {s t : State} (hstep : step s = .next t) (h : s.engine.Inv) : t.engine.Inv := by
  rcases step_cases hstep with heq | ⟨-, -, heq⟩ | ⟨w, -, heq⟩ | ⟨-, heq⟩
  · exact heq ▸ h
  · exact heq ▸ microEffect_inv h
  · exact heq ▸ commandEffect_inv w h
  · exact heq ▸ reset_inv

/-- What every step keeps of the engine, every run keeps. -/
theorem run_keeps {p : Engine → Prop} (hstep : ∀ {s t : State}, step s = .next t → p s.engine → p t.engine)
    {n : Nat} {s t : State} (hrun : Host.Core.run Sys2Proof.core n s = .next t) (h : p s.engine) : p t.engine := by
  induction n generalizing s with
  | zero =>
    cases hrun
    exact h
  | succ n ih =>
    obtain ⟨u, hu, hrest⟩ := run_succ_next hrun
    exact ih hrest (hstep hu h)

theorem reachable_inv {s : State} (h : Reachable s) : s.engine.Inv := by
  obtain ⟨es, n, hrun⟩ := h
  exact run_keeps step_inv hrun reset_inv

/-- Settles O48: a reachable state meets `Engine.Inv`, and the statement's clauses are those of `Engine.InvStated`. -/
theorem reachableStatesMeetInvariants : Obligations.ReachableStatesMeetInvariants := by
  intro s hreach
  obtain ⟨⟨hfinal, hmore, hrest, hidle, haccum, hdone, hfold, hzero⟩, -⟩ := reachable_inv hreach
  exact ⟨hfinal, hmore, hrest, hidle, fun hphase hseq => haccum ⟨hphase, hseq⟩, hdone,
    fun _ => Nat.le_of_lt_succ s.engine.i.isLt, fun hseq => congrArg BitVec.toNat (hfold hseq), hzero⟩

end Sys2Proof.Machine
end

section
/-! The three checks of a command (60_exceptions.md R165 to R168): what a command word does to the engine by the first
check that fails, and that an executed command sets no error bit. -/

namespace Sys2Proof.Machine

open Sys2Proof Host

section Checks

variable {w : Word} {i : Instr}

/-- The decoder accepts every well-formed word. -/
theorem decodeCommand_of_wf (hwf : commandWordWf w = true) : ∃ i, decodeCommand w = .ok i := by
  cases hdec : decodeCommand w with
  | ok i => exact ⟨i, rfl⟩
  | error r => exact absurd hwf (Bool.eq_false_iff.1 ((decodeCommand_error_iff w).1 ⟨r, hdec⟩))

/-- The phases of a command word by its opcode: ACCUM alone for WRITE's and FINISH's, every phase for the others
(45_host_commands.md R131). -/
theorem legalIn_iff_of_decode (hdec : decodeCommand w = .ok i) (p : Phase) :
    legalIn i p = true ↔ p = .accum ∨ ¬(w.toNat % 256 = 2 ∨ w.toNat % 256 = 3) := by
  rcases decodeCommand_cases w with
    ⟨h, -⟩ | ⟨h, -, hop⟩ | ⟨h, -⟩ | ⟨h, hval⟩ | ⟨h, hval⟩ | ⟨h, hval⟩ | ⟨h, hval⟩ | ⟨h, -⟩ <;>
    cases h.symm.trans hdec
  -- The words that decode are left: WRITE's, NOP's, START's, FINISH's and CLEAR's.
  · simp [legalIn_write_iff, hop]
  · simp [legalIn, hval]
  · simp [legalIn, hval]
  · simp [legalIn_finish_iff, hval]
  · simp [legalIn, hval]

end Checks

section CommandEffects

variable {e : Engine} {w : Word} {i : Instr} (hrest : e.seq = .rest)

include hrest

/-- The second check: the decoder answers an error to a word that is not well formed (R167). -/
theorem commandEffect_of_illegal (hwf : commandWordWf w = false) : commandEffect w e = e.raise .opc := by
  obtain ⟨r, hdec⟩ := (decodeCommand_error_iff w).2 hwf
  rw [commandEffect, hdec]
  exact attempt_of_illegal hrest

/-- The third check (R168). -/
theorem commandEffect_of_wrong_phase (hdec : decodeCommand w = .ok i) (hphase : legalIn i e.phase = false) :
    commandEffect w e = e.raise .seq := by
  rw [commandEffect, hdec]
  exact attempt_of_phase hrest hphase

/-- A word that passes the three checks is executed (45_host_commands.md R125). -/
theorem commandEffect_of_legal (hdec : decodeCommand w = .ok i) (hphase : legalIn i e.phase = true) :
    commandEffect w e = commandBody i e := by
  rw [commandEffect, hdec]
  exact attempt_of_legal hrest hphase

end CommandEffects

section ExecutedCommands

variable (e : Engine) (b : ErrorBit)

@[simp] theorem reset_err : Engine.reset.err b = false := by cases b <;> rfl
@[simp] theorem startEngine_err : (startEngine e).err b = false := by cases b <;> rfl
@[simp] theorem writeEngine_err (x : Byte) : (writeEngine x e).err b = e.err b := by cases b <;> simp [Engine.err]
@[simp] theorem finishEngine_err : (finishEngine e).err b = e.err b := by cases b <;> rfl

/-- A command that is executed sets no error bit: START and CLEAR clear all three, the others leave them. -/
theorem err_of_commandBody_err {e : Engine} {b : ErrorBit} (i : Instr) (h : (commandBody i e).err b = true) :
    e.err b = true := by
  cases i with
  | start => exact absurd ((startEngine_err e b).symm.trans h) Bool.false_ne_true
  | clear => exact absurd ((reset_err b).symm.trans h) Bool.false_ne_true
  | write x => exact (writeEngine_err e b x).symm.trans h
  | finish => exact (finishEngine_err e b).symm.trans h
  | _ => exact h

end ExecutedCommands

/-- A command not allowed in the phase it meets at REST has no effect but ERR_SEQ (R168). -/
theorem command_of_wrong_phase {s : State} {i : Instr} {body : Engine → Engine} (hrest : s.engine.seq = .rest)
    (hphase : legalIn i s.engine.phase = false) :
    command i body s = .next (s.onEngine fun e => e.raise .seq) := by
  simp only [command, State.onEngine, attempt_of_phase hrest hphase]

theorem ne_accum_of_idle_or_done {p : Phase} (h : p = .idle ∨ p = .done) : p ≠ .accum := by
  rcases h with rfl | rfl <;> decide

/-- Settles O11: the busy check is the first, whatever the word decodes to. -/
theorem busyCommandIsDiscarded : Obligations.BusyCommandIsDiscarded := by
  intro s w rest hev hbusy
  rw [step_command hev, State.onEngine, commandEffect_of_busy hbusy]
  rfl

/-- Settles O12: each of R167's causes makes the word ill-formed. -/
theorem illegalWordSetsErrOpc : Obligations.IllegalWordSetsErrOpc := by
  intro s w rest hev hrest hcause
  have hwf : commandWordWf w = false := (commandWordWf_eq_false_iff w).2 (by omega)
  rw [step_command hev, State.onEngine, commandEffect_of_illegal hrest hwf]
  rfl

/-- Settles O13: WRITE and FINISH are allowed in ACCUM only. -/
theorem wrongPhaseCommandSetsErrSeq : Obligations.WrongPhaseCommandSetsErrSeq := by
  intro s i hrest hphase hi
  have hne := ne_accum_of_idle_or_done hphase
  rcases hi with rfl | ⟨x, rfl⟩
  · exact command_of_wrong_phase hrest (Bool.eq_false_iff.2 (mt (legalIn_finish_iff _).1 hne))
  · exact command_of_wrong_phase hrest (Bool.eq_false_iff.2 (mt (legalIn_write_iff x _).1 hne))

/-- Settles O14: the effect of the word by the first check that fails, and of an executed command on the error bits. -/
theorem firstFailingCheckSetsItsBit : Obligations.FirstFailingCheckSetsItsBit := by
  intro s w rest hev
  refine ⟨_, step_command hev, rfl, rfl, commandEffect_of_busy, commandEffect_of_illegal, ?phase, ?passes⟩
  case phase =>
    intro hrest hwf hop hphase
    obtain ⟨i, hdec⟩ := decodeCommand_of_wf hwf
    have hwrong : ¬ legalIn i s.engine.phase = true := by
      rw [legalIn_iff_of_decode hdec]
      exact not_or.2 ⟨ne_accum_of_idle_or_done hphase, not_not.2 hop⟩
    exact commandEffect_of_wrong_phase hrest hdec (Bool.eq_false_iff.2 hwrong)
  case passes =>
    intro hrest hwf hpass b hb
    obtain ⟨i, hdec⟩ := decodeCommand_of_wf hwf
    have hlegal : legalIn i s.engine.phase = true := by
      rw [legalIn_iff_of_decode hdec]
      rcases hpass with hop | hop | hop | hphase
      · exact .inr (by omega)
      · exact .inr (by omega)
      · exact .inr (by omega)
      · exact .inl hphase
    rw [onEngine_engine, commandEffect_of_legal hrest hdec hlegal] at hb
    exact err_of_commandBody_err i hb

end Sys2Proof.Machine
end

section
/-! The encoder against the decoder (30_encoding.md R55 to R64): decoding and encoding are inverse to each other, how
many command words there are, and a code that is run where it stands. -/

namespace Sys2Proof.Machine

open Sys2Proof Host

/-- WRITE's command word, as 30_encoding.md R64 writes it. -/
def writeWord (x : Byte) : Word := 0x00000002 ||| (x.setWidth 32 <<< 8)

theorem encode_write (x : Byte) : encode (.write x) = .command (writeWord x) := rfl

/-- The byte stands in bits 15:8, clear of the opcode. -/
theorem writeWord_toNat (x : Byte) : (writeWord x).toNat = 256 * x.toNat + 2 := by
  have hx := x.isLt
  have hshift : (x.setWidth 32 <<< 8).toNat = 2 ^ 8 * x.toNat := by
    rw [BitVec.toNat_shiftLeft, BitVec.toNat_setWidth, Nat.shiftLeft_eq]
    omega
  rw [writeWord, BitVec.toNat_or, hshift, Nat.or_comm, ← Nat.two_pow_add_eq_or_of_lt (by decide)]
  rfl

theorem dataField_writeWord (x : Byte) : dataField (writeWord x) = x := by
  have hx := x.isLt
  apply BitVec.eq_of_toNat_eq
  rw [dataField_toNat, writeWord_toNat]
  omega

/-- A word with WRITE's opcode and RSV = 0 is WRITE's word with the byte in its DATA field. -/
theorem writeWord_dataField {w : Word} (hrsv : w.toNat / 65536 = 0) (hop : w.toNat % 256 = 2) :
    writeWord (dataField w) = w := by
  apply BitVec.eq_of_toNat_eq
  rw [writeWord_toNat, dataField_toNat]
  omega

theorem writeWord_injective : Function.Injective writeWord :=
  Function.LeftInverse.injective dataField_writeWord

theorem decodeCommand_writeWord (x : Byte) : decodeCommand (writeWord x) = .ok (.write x) := by
  have hx := x.isLt
  have hval := writeWord_toNat x
  rcases decodeCommand_cases (writeWord x) with h | ⟨h, -⟩ | h | h | h | h | h | h
  · omega
  · rw [h, dataField_writeWord]
  all_goals omega

/-- Settles O2: every instruction but WRITE has one code, and WRITE's byte comes back out of the DATA field. -/
theorem decodeOfEncodeIsInstr : Obligations.DecodeOfEncodeIsInstr := by
  intro i _
  cases i with
  | write x => exact decodeCommand_writeWord x
  | _ => rfl

theorem encode_of_decodeCommand {w : Word} {i : Instr} (h : decodeCommand w = .ok i) : encode i = .command w := by
  rcases decodeCommand_cases w with
    ⟨g, -⟩ | ⟨g, hrsv, hop⟩ | ⟨g, -⟩ | ⟨g, hval⟩ | ⟨g, hval⟩ | ⟨g, hval⟩ | ⟨g, hval⟩ | ⟨g, -⟩ <;>
    cases g.symm.trans h
  -- The words that decode are left: WRITE's, NOP's, START's, FINISH's and CLEAR's.
  · exact congrArg Encoding.command (writeWord_dataField hrsv hop)
  all_goals exact congrArg Encoding.command (BitVec.eq_of_toNat_eq hval.symm)

theorem encode_of_decodeMicro {code : BitVec 3} {i : Instr} (h : decodeMicro code = .ok i) :
    encode i = .micro code := by
  unfold decodeMicro at h
  split_ifs at h with hload hstep hfold hpadA hpadB hformat <;> cases h
  · rw [hload]; rfl
  · rw [hstep]; rfl
  · rw [hfold]; rfl
  · rw [hpadA]; rfl
  · rw [hpadB]; rfl
  · rw [hformat]; rfl

/-- Settles O3, for each of the two kinds of code. -/
theorem encodeOfDecodeIsCode : Obligations.EncodeOfDecodeIsCode := by
  intro c i h
  cases c with
  | command w => exact encode_of_decodeCommand h
  | micro code => exact encode_of_decodeMicro h

theorem instr_wf (i : Instr) : i.wf = true := by
  cases i <;> rfl

/-- By O2 and O3: a word decodes to an instruction exactly when it is the instruction's code. -/
theorem decodeCommand_eq_ok_iff {w : Word} {i : Instr} : decodeCommand w = .ok i ↔ encode i = .command w := by
  constructor
  · exact encode_of_decodeCommand
  · intro h
    have hdec := decodeOfEncodeIsInstr i (instr_wf i)
    rwa [h] at hdec

/-- The 256 bytes, in order. -/
def allBytes : List Byte := (List.finRange 256).map BitVec.ofFin

theorem mem_allBytes (x : Byte) : x ∈ allBytes :=
  List.mem_map.2 ⟨x.toFin, List.mem_finRange _, rfl⟩

theorem allBytes_nodup : allBytes.Nodup :=
  (List.nodup_finRange 256).map fun _ _ h => congrArg BitVec.toFin h

theorem allBytes_length : allBytes.length = 256 :=
  (List.length_map _).trans List.length_finRange

/-- The legal command words: NOP's, START's, FINISH's, CLEAR's and one WRITE for each byte (30_encoding.md R56). -/
def commandWords : List Word := [0, 1, 3, 4] ++ allBytes.map writeWord

theorem commandWords_length : commandWords.length = 260 := by
  rw [commandWords, List.length_append, List.length_map, allBytes_length]
  rfl

/-- The opcode, 2 in the WRITEs and in no other, keeps the two parts apart. -/
theorem commandWords_nodup : commandWords.Nodup := by
  refine List.nodup_append'.2 ⟨by decide, allBytes_nodup.map writeWord_injective, ?_⟩
  intro w hother hwrite
  obtain ⟨x, -, rfl⟩ := List.mem_map.1 hwrite
  have hop : (writeWord x).toNat % 256 = 2 := by
    rw [writeWord_toNat]
    omega
  have hne : ∀ v ∈ ([0, 1, 3, 4] : List Word), v.toNat % 256 ≠ 2 := by simp
  exact hne _ hother hop

theorem mem_commandWords_iff (w : Word) : w ∈ commandWords ↔ ∃ i, decodeCommand w = .ok i := by
  have hwrite : w ∈ allBytes.map writeWord ↔ ∃ x, writeWord x = w := by
    simp only [List.mem_map, mem_allBytes, true_and]
  rw [commandWords, List.mem_append, hwrite]
  simp only [decodeCommand_eq_ok_iff]
  constructor
  · rintro (hother | ⟨x, rfl⟩)
    · simp only [List.mem_cons, List.not_mem_nil, or_false] at hother
      rcases hother with rfl | rfl | rfl | rfl
      exacts [⟨.nop, rfl⟩, ⟨.start, rfl⟩, ⟨.finish, rfl⟩, ⟨.clear, rfl⟩]
    · exact ⟨.write x, rfl⟩
  · rintro ⟨i, hi⟩
    cases i with
    | write x => exact .inr ⟨x, Encoding.command.inj hi⟩
    | nop => cases hi; exact .inl (by decide)
    | start => cases hi; exact .inl (by decide)
    | finish => cases hi; exact .inl (by decide)
    | clear => cases hi; exact .inl (by decide)
    | _ => cases hi

/-- Settles O5, by the list of them. -/
theorem exactlyTwoHundredSixtyCommandWords : Obligations.ExactlyTwoHundredSixtyCommandWords :=
  ⟨commandWords, commandWords_nodup, commandWords_length, mem_commandWords_iff⟩

section RunningACode

variable {s : State} {w : Word} {i : Instr} {rest : List Event}

theorem writeCommand_of_decode (hdec : decodeCommand w = .ok i) : writeCommand w s = exec i s := by
  rw [writeCommand, hdec]

theorem step_of_command (hev : s.events = cmdWrite w :: rest) (hdec : decodeCommand w = .ok i) :
    step s = exec i { s with events := rest } :=
  (step_busWrite hev).trans ((busWrite_of_reg_cmd rfl).trans (writeCommand_of_decode hdec))

theorem engineTurn_of_decode (hdec : decodeMicro s.engine.seq.code = .ok i) : engineTurn s = exec i s := by
  rw [engineTurn, hdec]

/-- The micro-operation seq names, run: the engine's turn. -/
theorem exec_of_decodeMicro (hdec : decodeMicro s.engine.seq.code = .ok i) :
    exec i s = .next (s.onEngine microEffect) :=
  (engineTurn_of_decode hdec).symm.trans (engineTurn_eq s)

theorem decodeTableWord_command (hdec : decodeCommand w = .ok i) : decodeTableWord 32 w.toNat = some i := by
  rw [decodeTableWord, if_neg (by decide), if_pos w.isLt, BitVec.ofNat_toNat, BitVec.setWidth_eq, hdec]
  rfl

theorem decodeTableWord_micro {code : BitVec 3} (hdec : decodeMicro code = .ok i) :
    decodeTableWord 8 code.toNat = some i := by
  rw [decodeTableWord, if_pos (by decide), if_pos code.isLt, BitVec.ofNat_toNat, BitVec.setWidth_eq, hdec]
  rfl

theorem withFetchWord_command : s.withFetchWord 32 w.toNat = { s with events := cmdWrite w :: s.events } := by
  rw [State.withFetchWord, placeNext, if_neg (by decide), BitVec.ofNat_toNat, BitVec.setWidth_eq]

theorem withFetchWord_micro (q : Seq) :
    s.withFetchWord 8 q.code.toNat =
      { s with engine := { s.engine with seq := q }, events := .engine :: s.events } := by
  cases q <;> rfl

/-- A host command's code is a command word. -/
theorem exists_encode_of_isCommand (h : i.isCommand = true) : ∃ w, encode i = .command w := by
  cases i with
  | nop | start | write | finish | clear => exact ⟨_, rfl⟩
  | _ => cases h

end RunningACode

/-- Settles O7: the write names CMD, and the word is decoded. -/
theorem commandWordRunsDecodedInstr : Obligations.CommandWordRunsDecodedInstr :=
  fun _ _ _ _ hev hdec => step_of_command hev hdec

/-- Settles O6: the code is a word or a seq code that decodes to the instruction, by O2 and O3. -/
theorem opcodeTableWordRunsItsInstr : Obligations.OpcodeTableWordRunsItsInstr := by
  constructor
  · intro i s hcommand
    obtain ⟨w, hw⟩ := exists_encode_of_isCommand hcommand
    have hdec : decodeCommand w = .ok i := decodeCommand_eq_ok_iff.2 hw
    have hnum : (encode i).toNat = w.toNat := congrArg Encoding.toNat hw
    rw [hnum, withFetchWord_command]
    exact ⟨decodeTableWord_command hdec, step_of_command rfl hdec⟩
  · intro q i s hdec
    have hnum : (encode i).toNat = q.code.toNat := congrArg Encoding.toNat (encode_of_decodeMicro hdec)
    rw [hnum, withFetchWord_micro]
    exact ⟨decodeTableWord_micro hdec, (step_engine rfl).trans (exec_of_decodeMicro hdec).symm⟩

/-- Settles O1: each word is decoded. -/
theorem commandWordsDecodeAsSpecified : Obligations.CommandWordsDecodeAsSpecified := by
  unfold Obligations.CommandWordsDecodeAsSpecified
  decide

end Sys2Proof.Machine
end

section
/-! Where a step comes from and where it stops (20_memory.md R44, R47; 46_sequencer.md R145; 60_exceptions.md R170,
R172): the engine's turns, the events that always have a next state, and the one cause of refusal. -/

namespace Sys2Proof.Machine

open Sys2Proof Host

/-- Settles O47, for the engine's turn, a command word and reset each. -/
theorem stepKeepsInvariant : Obligations.StepKeepsInvariant :=
  fun _ _ hinv hstep => step_inv hstep hinv

/-- Settles O46: reset leaves IDLE at REST with nothing counted. -/
theorem resetMeetsInvariant : Obligations.ResetMeetsInvariant :=
  reset_inv

theorem microEffect_rest {e : Engine} (h : e.seq = .rest) : microEffect e = e := by rw [microEffect, h]

/-- REST's code names no micro-operation (30_encoding.md R63). -/
theorem seq_ne_rest_of_decodeMicro {q : Seq} {i : Instr} (hdec : decodeMicro q.code = .ok i) : q ≠ .rest := by
  rintro rfl
  cases hdec

/-- Settles O8: the three ways the engine agent takes a turn, and the micro-operation it runs. -/
theorem engineTurnRunsNamedMicroOp : Obligations.EngineTurnRunsNamedMicroOp := by
  intro s i hdec
  have hexec := exec_of_decodeMicro hdec
  refine ⟨fun hev => ?nil, fun rest hev => ?turn, fun rest hev => ?wait⟩
  case nil => rw [step_nil hev, hexec]
  case turn =>
    rw [step_engine hev]
    exact (exec_of_decodeMicro (s := { s with events := rest }) hdec).symm
  case wait => rw [step_wait_busy hev (seq_ne_rest_of_decodeMicro hdec), hexec]

/-- Settles O9: at REST a turn has no effect, and the wait ends. -/
theorem restingEngineDoesNothing : Obligations.RestingEngineDoesNothing := by
  intro s hrest
  refine ⟨fun hev => ?nil, fun rest hev => ?turn, fun rest hev => step_wait_rest hev hrest⟩
  case nil => rw [step_nil hev, State.onEngine, microEffect_rest hrest]
  case turn => rw [step_engine hev, State.onEngine, microEffect_rest hrest]

section Admitted

variable {s : State}

/-- A register that an admitted access names. -/
theorem accessReg_of_wf {acc : Access} (hwf : acc.wf = true) : ∃ r, accessReg acc = some r :=
  Option.isSome_iff_exists.1 ((accessReg_isSome acc).trans hwf)

theorem busRead_of_reg {acc : Access} {r : Reg} (hreg : accessReg acc = some r) :
    busRead acc s = .next { s with readLog := readReg s.engine r :: s.readLog } := by
  rw [busRead, hreg]

/-- An admitted write to the window: a command word at CMD, nothing elsewhere (45_host_commands.md R134). -/
theorem busWrite_of_wf {acc : Access} (w : Word) (hwf : acc.wf = true) :
    busWrite acc w s = .next (s.onEngine (commandEffect w)) ∨ busWrite acc w s = .next s := by
  obtain ⟨r, hreg⟩ := accessReg_of_wf hwf
  by_cases hcmd : r = .cmd
  · exact .inl ((busWrite_of_reg_cmd (hcmd ▸ hreg)).trans (writeCommand_eq w s))
  · exact .inr (busWrite_of_reg_ne_cmd hreg hcmd)

/-- Only a bus access can be an event that is not admitted (20_memory.md R43). -/
theorem next_of_admitted (h : ∀ ev rest, s.events = ev :: rest → ev.admitted = true) : ∃ t, step s = .next t := by
  cases hev : s.events with
  | nil => exact ⟨_, step_nil hev⟩
  | cons ev rest =>
    have hadm := h ev rest hev
    cases ev with
    | engine => exact ⟨_, step_engine hev⟩
    | reset => exact ⟨_, step_reset hev⟩
    | wait =>
      by_cases hrest : s.engine.seq = .rest
      · exact ⟨_, step_wait_rest hev hrest⟩
      · exact ⟨_, step_wait_busy hev hrest⟩
    | busRead acc =>
      obtain ⟨r, hreg⟩ := accessReg_of_wf hadm
      exact ⟨_, (step_busRead hev).trans (busRead_of_reg hreg)⟩
    | busWrite acc w =>
      rcases busWrite_of_wf w hadm with heq | heq
      · exact ⟨_, (step_busWrite hev).trans heq⟩
      · exact ⟨_, (step_busWrite hev).trans heq⟩

/-- The events that are not admitted, and what the step answers to them. -/
theorem refused_of_not_admitted {ev : Event} {rest : List Event} (hev : s.events = ev :: rest)
    (hadm : ev.admitted = false) :
    ∃ acc, acc.wf = false ∧ step s = .refused (.accessNotAdmitted acc) ∧
      (ev = .busRead acc ∨ ∃ w, ev = .busWrite acc w) := by
  cases ev with
  | busRead acc => exact ⟨acc, hadm, (step_busRead hev).trans (busRead_of_not_wf hadm), .inl rfl⟩
  | busWrite acc w => exact ⟨acc, hadm, (step_busWrite hev).trans (busWrite_of_not_wf hadm), .inr ⟨w, rfl⟩⟩
  | _ => cases hadm

end Admitted

/-- Settles O10: a refused step has a first event, and it is not admitted; `Fault` has no constructor. -/
theorem stepStopsOnlyOnUnadmittedAccess : Obligations.StepStopsOnlyOnUnadmittedAccess := by
  intro s
  refine ⟨next_of_admitted, (fun f _ => nomatch f), fun r hrefused => ?_⟩
  by_cases hall : ∀ ev rest, s.events = ev :: rest → ev.admitted = true
  · obtain ⟨t, ht⟩ := next_of_admitted hall
    cases ht.symm.trans hrefused
  · push Not at hall
    obtain ⟨ev, rest, hev, hadm⟩ := hall
    obtain ⟨acc, hwf, hstep, hacc⟩ := refused_of_not_admitted hev (Bool.eq_false_iff.2 hadm)
    cases hstep.symm.trans hrefused
    rcases hacc with rfl | ⟨w, rfl⟩
    · exact ⟨acc, rest, hwf, rfl, .inl hev⟩
    · exact ⟨acc, rest, hwf, rfl, .inr ⟨w, hev⟩⟩

theorem microOp_of_not_enabled {s : State} {code : Seq} {body : Engine → Engine} (h : s.engine.seq ≠ code) :
    microOp code body s = .refused (.microOpNotEnabled code) :=
  if_neg h

/-- Settles O28, for the micro-operation of each code. -/
theorem microOpOnlyWhenNamed : Obligations.MicroOpOnlyWhenNamed := by
  intro s q i hdec hne
  cases q with
  | rest => cases hdec
  | load | step | fold | padA | padB | format =>
    cases hdec
    exact microOp_of_not_enabled hne

end Sys2Proof.Machine
end

section
/-! What each event leaves of the engine: the sticky error bits (10_state.md R28), the registers by the events that
write them (10_state.md R15 to R29), and the sequencer's graph (46_sequencer.md R153). -/

namespace Sys2Proof.Machine

open Sys2Proof Host

/-- No micro-operation touches an error bit (60_exceptions.md R169). -/
theorem microEffect_err (e : Engine) (b : ErrorBit) : (microEffect e).err b = e.err b := by
  have hbits : (microEffect e).errOpc = e.errOpc ∧ (microEffect e).errSeq = e.errSeq ∧
      (microEffect e).errBusy = e.errBusy := by
    cases hseq : e.seq with
    | rest => simp [microEffect_rest hseq]
    | load => simp [microEffect_load hseq]
    | step => simp [microEffect_step hseq]
    | fold => simp [microEffect_fold hseq]
    | padA => simp [microEffect_padA hseq]
    | padB => simp [microEffect_padB hseq]
    | format => simp [microEffect_format hseq]
  obtain ⟨hopc, hseq, hbusy⟩ := hbits
  cases b with
  | opc => exact hopc
  | seq => exact hseq
  | busy => exact hbusy

/-- The registers that the pending micro-operation can change. -/
theorem microEffect_writes (e : Engine) :
    ((microEffect e).srf ≠ e.srf → e.seq = .fold) ∧
    ((microEffect e).work ≠ e.work → e.seq = .load ∨ e.seq = .step) ∧
    ((microEffect e).k ≠ e.k → e.seq = .load) ∧
    ((microEffect e).buf ≠ e.buf → e.seq = .padA ∨ e.seq = .padB) ∧
    ((microEffect e).cnt ≠ e.cnt → e.seq = .padA) ∧
    (microEffect e).len = e.len ∧
    ((microEffect e).i ≠ e.i → e.seq = .load ∨ e.seq = .step ∨ e.seq = .fold) ∧
    ((microEffect e).fin ≠ e.fin → e.seq = .padA ∨ e.seq = .padB ∨ e.seq = .format) ∧
    ((microEffect e).phase ≠ e.phase → e.seq = .padA ∨ e.seq = .padB ∨ e.seq = .format) ∧
    ((microEffect e).hex ≠ e.hex → e.seq = .format) := by
  cases hseq : e.seq with
  | rest => simp [microEffect_rest hseq]
  | load => simp [microEffect_load hseq]
  | step => simp [microEffect_step hseq]
  | fold => simp [microEffect_fold hseq]
  | padA => simp [microEffect_padA hseq]
  | padB => simp [microEffect_padB hseq]
  | format => simp [microEffect_format hseq]

/-- The ten registers of `Obligations.OnlyNamedEventsWriteEachRegister` are the same in both. -/
def Engine.SameRegisters (e e' : Engine) : Prop :=
  e'.srf = e.srf ∧ e'.work = e.work ∧ e'.k = e.k ∧ e'.buf = e.buf ∧ e'.cnt = e.cnt ∧ e'.len = e.len ∧ e'.i = e.i ∧
    e'.fin = e.fin ∧ e'.phase = e.phase ∧ e'.hex = e.hex

section Commands

variable {e : Engine} {w : Word}

theorem sameRegisters_rfl : e.SameRegisters e := ⟨rfl, rfl, rfl, rfl, rfl, rfl, rfl, rfl, rfl, rfl⟩

theorem raise_sameRegisters (b : ErrorBit) : e.SameRegisters (e.raise b) := by simp [Engine.SameRegisters]

theorem finishEngine_sameRegisters : e.SameRegisters (finishEngine e) := sameRegisters_rfl

/-- A command word that is not an accepted START or CLEAR: an accepted WRITE, or none of the ten registers changes. -/
theorem commandEffect_registers (w : Word) (e : Engine) :
    (e.seq = .rest ∧ (w = 0x00000001 ∨ w = 0x00000004)) ∨
    (e.seq = .rest ∧ e.phase = .accum ∧ w.toNat / 65536 = 0 ∧ w.toNat % 256 = 2 ∧
      commandEffect w e = writeEngine (dataField w) e) ∨
    e.SameRegisters (commandEffect w e) := by
  rcases commandEffect_cases w e with
    ⟨-, heq⟩ | ⟨-, -, heq⟩ | ⟨-, -, -, heq⟩ | ⟨-, -, heq⟩ | ⟨hrest, hval, -⟩ | ⟨hrest, hval, -⟩ |
    ⟨-, -, -, heq⟩ | hwrite
  · exact .inr (.inr (heq ▸ raise_sameRegisters .busy))
  · exact .inr (.inr (heq ▸ raise_sameRegisters .opc))
  · exact .inr (.inr (heq ▸ raise_sameRegisters .seq))
  · exact .inr (.inr (heq.symm ▸ sameRegisters_rfl))
  · exact .inl ⟨hrest, .inl (BitVec.eq_of_toNat_eq hval)⟩
  · exact .inl ⟨hrest, .inr (BitVec.eq_of_toNat_eq hval)⟩
  · exact .inr (.inr (heq ▸ finishEngine_sameRegisters))
  · exact .inr (.inl hwrite)

/-- Only an accepted START or CLEAR takes an error bit away (10_state.md R28). -/
theorem err_of_commandEffect {b : ErrorBit} (h : e.err b = true) (h' : (commandEffect w e).err b = false) :
    e.seq = .rest ∧ (w = 0x00000001 ∨ w = 0x00000004) := by
  rcases commandEffect_cases w e with
    ⟨-, heq⟩ | ⟨-, -, heq⟩ | ⟨-, -, -, heq⟩ | ⟨-, -, heq⟩ | ⟨hrest, hval, -⟩ | ⟨hrest, hval, -⟩ |
    ⟨-, -, -, heq⟩ | ⟨-, -, -, -, heq⟩
  · simp [heq, h] at h'
  · simp [heq, h] at h'
  · simp [heq, h] at h'
  · simp [heq, h] at h'
  · exact ⟨hrest, .inl (BitVec.eq_of_toNat_eq hval)⟩
  · exact ⟨hrest, .inr (BitVec.eq_of_toNat_eq hval)⟩
  · simp [heq, h] at h'
  · simp [heq, h] at h'

end Commands

/-- Settles O15: of the events that change the engine, a turn and every other command word keep the bits that are
set. -/
theorem errorBitsStayUntilCleared : Obligations.ErrorBitsStayUntilCleared := by
  intro s t b hstep hset hclear
  rcases step_cases hstep with heq | ⟨-, -, heq⟩ | ⟨w, hw, heq⟩ | ⟨hreset, -⟩
  · rw [heq, hset] at hclear
    cases hclear
  · rw [heq, microEffect_err, hset] at hclear
    cases hclear
  · obtain ⟨hrest, hstart | hclear'⟩ := err_of_commandEffect hset (heq ▸ hclear)
    · exact .inr ⟨hrest, .inl (hstart ▸ hw)⟩
    · exact .inr ⟨hrest, .inr (hclear' ▸ hw)⟩
  · exact .inl hreset

/-- Settles O45: by the step's cases, the micro-operation's registers, and WRITE's four. -/
theorem onlyNamedEventsWriteEachRegister : Obligations.OnlyNamedEventsWriteEachRegister := by
  intro s t hstep
  by_cases hsame : s.engine.SameRegisters t.engine
  · obtain ⟨hsrf, hwork, hk, hbuf, hcnt, hlen, hi, hfin, hphase, hhex⟩ := hsame
    exact .inr (.inr ⟨(absurd hsrf ·), (absurd hwork ·), (absurd hk ·), (absurd hbuf ·), (absurd hcnt ·),
      (absurd hlen ·), (absurd hi ·), (absurd hfin ·), (absurd hphase ·), (absurd hhex ·)⟩)
  rcases step_cases hstep with heq | ⟨hturn, -, heq⟩ | ⟨w, hw, heq⟩ | ⟨hreset, -⟩
  · exact absurd (heq ▸ sameRegisters_rfl) hsame
  · obtain ⟨hsrf, hwork, hk, hbuf, hcnt, hlen, hi, hfin, hphase, hhex⟩ := microEffect_writes s.engine
    rw [heq]
    exact .inr (.inr ⟨fun h => ⟨hturn, hsrf h⟩, fun h => ⟨hturn, hwork h⟩, fun h => ⟨hturn, hk h⟩,
      fun h => .inr ⟨hturn, hbuf h⟩, fun h => .inr ⟨hturn, hcnt h⟩, fun h => absurd hlen h,
      fun h => ⟨hturn, hi h⟩, fun h => .inr ⟨hturn, hfin h⟩, fun h => ⟨hturn, hphase h⟩, fun h => ⟨hturn, hhex h⟩⟩)
  · rcases commandEffect_registers w s.engine with ⟨hrest, hword⟩ | ⟨hrest, hphase, hrsv, hop, hwrite⟩ | hkept
    · rcases hword with rfl | rfl
      · exact .inr (.inl ⟨hrest, .inl hw⟩)
      · exact .inr (.inl ⟨hrest, .inr hw⟩)
    · have haccepted : s.acceptedWriteNext := ⟨hrest, hphase, w, hw, hrsv, hop⟩
      have hfull : t.engine.fin ≠ s.engine.fin → s.engine.cnt.toNat = 63 := by
        rw [heq, hwrite, writeEngine_fin, ← sixBit_eq_last_iff]
        split_ifs with hlast
        · exact fun _ => hlast
        · exact fun h => absurd rfl h
      refine .inr (.inr ⟨?_, ?_, ?_, fun _ => .inl haccepted, fun _ => .inl haccepted, fun _ => haccepted, ?_,
        fun h => .inl ⟨haccepted, hfull h⟩, ?_, ?_⟩)
      all_goals simp [heq, hwrite]
    · exact absurd (heq ▸ hkept) hsame
  · exact .inl hreset

/-- A command word at REST leaves the sequencer there, unless it is an accepted FINISH or the WRITE that fills a block
(46_sequencer.md R153). -/
theorem commandEffect_successors {e : Engine} {w : Word} (hrest : e.seq = .rest) :
    (commandEffect w e).seq = .rest ∨
    e.phase = .accum ∧ decodeCommand w = .ok .finish ∨
    e.phase = .accum ∧ e.cnt.toNat = 63 ∧ ∃ x, decodeCommand w = .ok (.write x) := by
  rcases commandEffect_cases w e with
    ⟨-, heq⟩ | ⟨-, -, heq⟩ | ⟨-, -, -, heq⟩ | ⟨-, -, heq⟩ | ⟨-, -, heq⟩ | ⟨-, -, heq⟩ |
    ⟨-, hphase, hval, -⟩ | ⟨-, hphase, hrsv, hop, heq⟩
  · exact .inl (by rw [heq, raise_seq, hrest])
  · exact .inl (by rw [heq, raise_seq, hrest])
  · exact .inl (by rw [heq, raise_seq, hrest])
  · exact .inl (by rw [heq, hrest])
  · exact .inl (by rw [heq, startEngine_seq, hrest])
  · exact .inl (by rw [heq]; rfl)
  · have hword : w = 0x00000003 := BitVec.eq_of_toNat_eq hval
    exact .inr (.inl ⟨hphase, decodeCommand_eq_ok_iff.2 (congrArg Encoding.command hword.symm)⟩)
  · by_cases hfull : e.cnt = 63
    · have hdec : decodeCommand w = .ok (.write (dataField w)) :=
        decodeCommand_eq_ok_iff.2 (congrArg Encoding.command (writeWord_dataField hrsv hop))
      exact .inr (.inr ⟨hphase, (sixBit_eq_last_iff _).1 hfull, _, hdec⟩)
    · exact .inl (by rw [heq, writeEngine_seq, if_neg hfull, hrest])

/-- Settles O49: the two commands' effects, the words that leave seq alone, and the micro-operations' successors. -/
theorem sequencerFollowsItsGraph : Obligations.SequencerFollowsItsGraph := by
  refine ⟨?write, ?finish, ?command, ?turn⟩
  case write =>
    intro s x hrest hphase hfull
    have hcnt : s.engine.cnt = 63 := (sixBit_eq_last_iff _).2 hfull
    exact ⟨_, exec_write_eq hrest hphase x, by simp [hcnt], by simp [hcnt]⟩
  case finish =>
    intro s hrest hphase
    exact ⟨_, exec_finish_eq hrest hphase, finishEngine_seq _⟩
  case command =>
    intro s w rest hev hrest
    refine ⟨_, step_command hev, ?_⟩
    rw [onEngine_engine]
    exact commandEffect_successors hrest
  case turn =>
    intro s
    refine ⟨_, engineTurn_eq s, ?_⟩
    rw [onEngine_engine]
    cases hseq : s.engine.seq with
    | rest => simp [microEffect_rest hseq, hseq]
    | load => simp [microEffect_load hseq]
    | step =>
      rw [microEffect_step hseq]
      by_cases hlast : s.engine.i = 63
      · simp [hlast]
      · have hlt := sixBit_lt_of_ne_last hlast
        simp [stepEngine_of_lt hlt, hseq, hlt.ne]
        omega
    | fold => simp +contextual [microEffect_fold hseq, afterFold]
    | padA =>
      rw [microEffect_padA hseq]
      by_cases hfits : s.engine.cnt.toNat ≤ 55
      · simp [hfits]; omega
      · simp [hfits]
    | padB => simp [microEffect_padB hseq]
    | format => simp [microEffect_format hseq]

end Sys2Proof.Machine
end

section
/-! The host commands at REST and reset (45_host_commands.md R126 to R130, 70_reset_and_hazards.md R185). -/

namespace Sys2Proof.Machine

open Sys2Proof Host

/-- START from REST leaves nothing of what was before: reset's engine with the IV in the SRF and phase ACCUM. -/
theorem startEngine_of_rest {e : Engine} (hrest : e.seq = .rest) :
    startEngine e = { Engine.reset with srf := iv, phase := .accum } := by
  rw [startEngine, hrest]
  rfl

/-- Settles O16: NOP passes every check, and its effect is none. -/
theorem nopHasNoEffect : Obligations.NopHasNoEffect := by
  intro s hrest
  have hnop : attempt (some .nop) id s.engine = s.engine := attempt_of_legal hrest rfl
  simp only [exec, execNop, command, State.onEngine, hnop]

/-- Settles O17, by START's effect from REST. -/
theorem startBeginsFreshComputation : Obligations.StartBeginsFreshComputation := by
  intro s hrest
  refine ⟨_, exec_start_eq hrest, rfl, rfl, ?_⟩
  rw [onEngine_engine, startEngine_of_rest hrest]
  exact ⟨by decide, rfl⟩

/-- Settles O18: START's effect from REST does not name the engine it starts from. -/
theorem startForgetsEarlierState : Obligations.StartForgetsEarlierState := by
  intro s s' hrest hrest'
  exact ⟨_, _, exec_start_eq hrest, exec_start_eq hrest',
    (startEngine_of_rest hrest).trans (startEngine_of_rest hrest').symm⟩

theorem writeEngine_frame (x : Byte) (e : Engine) :
    writeEngine x e =
      { e with
        buf := (writeEngine x e).buf, len := (writeEngine x e).len, cnt := (writeEngine x e).cnt,
        fin := (writeEngine x e).fin, seq := (writeEngine x e).seq } := by
  unfold writeEngine
  split <;> rfl

/-- Settles O19: the count is 63 or below it. -/
theorem writeAppendsOneByte : Obligations.WriteAppendsOneByte := by
  intro s x hrest hphase
  refine ⟨_, exec_write_eq hrest hphase x, ?_, ?_, ?_, ?_, ?_⟩
  · intro p hp
    simp only [onEngine_engine, writeEngine_buf, putByte_get]
  · rw [onEngine_engine, writeEngine_len, BitVec.toNat_add]
    rfl
  · intro hfull
    have hlast := (sixBit_eq_last_iff _).2 hfull
    simp only [onEngine_engine, writeEngine_cnt, writeEngine_fin, writeEngine_seq, if_pos hlast, and_self]
  · intro hlt
    have hne := mt (sixBit_eq_last_iff _).1 hlt.ne
    simp only [onEngine_engine, writeEngine_cnt, writeEngine_fin, writeEngine_seq, if_neg hne,
      sixBit_succ_toNat hlt, hrest, and_self]
  · exact congrArg (fun e => { s with engine := e }) (writeEngine_frame x s.engine)

/-- Settles O20, by FINISH's effect. -/
theorem finishStartsPadding : Obligations.FinishStartsPadding :=
  fun _ hrest hphase => exec_finish_eq hrest hphase

theorem reset_status : Engine.reset.status = 0x00000000 := by decide

/-- Settles O21, by CLEAR's effect. -/
theorem clearRestoresResetState : Obligations.ClearRestoresResetState :=
  fun _ hrest => ⟨_, exec_clear_eq hrest, rfl, reset_status⟩

/-- Settles O44, by reset's effect on any engine. -/
theorem resetGivesResetValues : Obligations.ResetGivesResetValues :=
  ⟨Engine.reset, rfl, reset_status, rfl, fun _ _ hev => step_reset hev⟩

end Sys2Proof.Machine
end

section
/-! The bytes that LOAD, PAD_A, PAD_B and FORMAT move (46_sequencer.md R146, R150 to R152), and the output characters
(44_output_formatter.md R115 to R120). -/

namespace Sys2Proof.Machine

open Sys2Proof Host

section Exec

variable {s : State}

theorem exec_load_eq (h : s.engine.seq = .load) : exec .load s = .next (s.onEngine loadEngine) :=
  microOp_of_enabled h

theorem exec_padA_eq (h : s.engine.seq = .padA) : exec .padA s = .next (s.onEngine padAEngine) :=
  microOp_of_enabled h

theorem exec_padB_eq (h : s.engine.seq = .padB) : exec .padB s = .next (s.onEngine padBEngine) :=
  microOp_of_enabled h

theorem exec_format_eq (h : s.engine.seq = .format) : exec .format s = .next (s.onEngine formatEngine) :=
  microOp_of_enabled h

end Exec

/-- Settles O22, by the schedule's words. -/
theorem loadDecodesBlock : Obligations.LoadDecodesBlock := by
  intro s hseq
  refine ⟨_, exec_load_eq hseq, fun j hj => ?_, rfl, rfl, rfl, rfl⟩
  simp only [onEngine_engine, loadEngine_k, decodeBlock_get _ 0 j hj, le32_toNat]

theorem bitLength_toNat (len : DWord) : (bitLength len).toNat = 8 * len.toNat % 2 ^ 64 := by
  rw [bitLength, BitVec.toNat_shiftLeft, Nat.shiftLeft_eq, Nat.mul_comm]

theorem padAEngine_frame (e : Engine) :
    padAEngine e =
      { e with
        buf := (padAEngine e).buf, fin := (padAEngine e).fin, phase := (padAEngine e).phase,
        cnt := (padAEngine e).cnt, seq := (padAEngine e).seq } := by
  unfold padAEngine
  split <;> rfl

/-- Settles O25, by PAD_A's buffer position by position, and by whether the length field fits. -/
theorem padABuildsFirstPaddingBlock : Obligations.PadABuildsFirstPaddingBlock := by
  intro s hseq
  have hcnt := s.engine.cnt.isLt
  refine ⟨_, exec_padA_eq hseq, fun p hp => ?bytes, ?fits, ?more, padAEngine_cnt _, padAEngine_seq _, ?frame⟩
  case bytes =>
    simp only [onEngine_engine, padAEngine_buf, padFirst_get]
    refine ⟨fun hmsg => ?_, fun hmark => ?_, fun hlo hhi => ?_, fun hfits hlen => ?_⟩
    · rw [if_neg (by omega), if_pos hmsg]
    · rw [if_neg (by omega), if_neg (by omega), if_pos hmark]
    · rw [if_neg (by omega), if_neg (by omega), if_neg (by omega)]
    · rw [if_pos ⟨hfits, hlen⟩, byteOfDWord_toNat, bitLength_toNat]
  case fits =>
    intro hfits
    simp only [onEngine_engine, padAEngine_fin, padAEngine_phase, if_pos hfits, and_self]
  case more =>
    intro hmore
    simp only [onEngine_engine, padAEngine_fin, padAEngine_phase, if_neg (Nat.not_le.2 hmore), and_self]
  case frame => exact congrArg (fun e => { s with engine := e }) (padAEngine_frame s.engine)

/-- Settles O26, by PAD_B's buffer position by position. -/
theorem padBBuildsSecondPaddingBlock : Obligations.PadBBuildsSecondPaddingBlock := by
  intro s hseq
  refine ⟨_, exec_padB_eq hseq, fun p hp => ?_, rfl, rfl, rfl, rfl⟩
  simp only [onEngine_engine, padBEngine_buf, padSecond_get]
  constructor
  · intro hzero
    rw [if_neg (Nat.not_le.2 hzero)]
  · intro hlen
    rw [if_pos hlen, byteOfDWord_toNat, bitLength_toNat]

/-- A byte of a word, as a number (00_scope.md R13). -/
theorem byteOfWord_toNat (w : Word) (q : Nat) : (byteOfWord w q).toNat = w.toNat / 2 ^ (8 * q) % 256 := by
  simp only [byteOfWord, BitVec.extractLsb'_toNat, Nat.shiftRight_eq_div_pow]

/-- HEXDIGIT as a number (44_output_formatter.md R116). -/
theorem hexDigit_toNat (v : BitVec 4) :
    (hexDigit v).toNat = if v.toNat ≤ 9 then 0x30 + v.toNat else 0x61 + (v.toNat - 10) := by
  revert v
  decide

section Characters

variable (q : Quad) {n : Nat}

/-- The character of a byte's more significant nibble (R117). -/
theorem formatState_get_even (hn : n < 16) :
    (formatState q)[2 * n] = hexDigit ((serialize q)[n].extractLsb' 4 4) := by
  have heven : 2 * n % 2 = 0 := Nat.mul_mod_right 2 n
  have hhalf : 2 * n / 2 = n := Nat.mul_div_cancel_left n (by decide)
  simp only [formatState, hexFormat_get 0 _ (2 * n), if_pos heven, hhalf]

/-- The character of a byte's less significant nibble (R117). -/
theorem formatState_get_odd (hn : n < 16) :
    (formatState q)[2 * n + 1] = hexDigit ((serialize q)[n].extractLsb' 0 4) := by
  have hodd : ¬(2 * n + 1) % 2 = 0 := by omega
  have hhalf : (2 * n + 1) / 2 = n := by omega
  simp only [formatState, hexFormat_get 0 _ (2 * n + 1), if_neg hodd, hhalf]

/-- Byte p of word w stands at 4w + p (R115). -/
theorem serialize_get_word (w : Fin 4) {p : Nat} (hp : p < 4) :
    (serialize q)[4 * w.val + p] = byteOfWord (q.word w) p := by
  have hw : (4 * w.val + p) / 4 = w := by omega
  have hbyte : (4 * w.val + p) % 4 = p := by omega
  simp only [serialize_get 0, hw, hbyte, Fin.eta]

end Characters

theorem highNibble_toNat (b : Byte) : (b.extractLsb' 4 4).toNat = b.toNat / 16 := by
  have hb := b.isLt
  rw [BitVec.extractLsb'_toNat, Nat.shiftRight_eq_div_pow]
  omega

theorem lowNibble_toNat (b : Byte) : (b.extractLsb' 0 4).toNat = b.toNat % 16 := by
  rw [BitVec.extractLsb'_toNat, Nat.shiftRight_zero]

/-- Settles O27, by the two characters of each byte. -/
theorem formatWritesHexDigits : Obligations.FormatWritesHexDigits := by
  intro s hseq
  refine ⟨_, exec_format_eq hseq, fun w p hw hp v hv => ?_, rfl, rfl, rfl, rfl⟩
  have hword : (s.engine.srf.word ⟨w, hw⟩) =
      if w = 0 then s.engine.srf.a else if w = 1 then s.engine.srf.b else if w = 2 then s.engine.srf.c
        else s.engine.srf.d := by
    simp only [Quad.word, Fin.ext_iff]
    rfl
  have hbyte : ((serialize s.engine.srf)[4 * w + p]).toNat = v := by
    rw [serialize_get_word s.engine.srf ⟨w, hw⟩ hp, byteOfWord_toNat, hword, hv]
  have hplace : 8 * w + 2 * p = 2 * (4 * w + p) := by ring
  simp only [onEngine_engine, formatEngine_hex, hplace]
  rw [formatState_get_even _ (by omega), formatState_get_odd _ (by omega), hexDigit_toNat, hexDigit_toNat,
    highNibble_toNat, lowNibble_toNat, hbyte]
  exact ⟨rfl, rfl⟩

theorem hexDigit_range (v : BitVec 4) :
    (0x30 ≤ (hexDigit v).toNat ∧ (hexDigit v).toNat ≤ 0x39) ∨
    (0x61 ≤ (hexDigit v).toNat ∧ (hexDigit v).toNat ≤ 0x66) := by
  have hv := v.isLt
  rw [hexDigit_toNat]
  split_ifs <;> omega

/-- Settles O37: every character is a hexadecimal digit. -/
theorem outputIsLowercaseHex : Obligations.OutputIsLowercaseHex := by
  intro q n hn
  rcases Nat.even_or_odd' n with ⟨p, rfl | rfl⟩
  · rw [formatState_get_even q (by omega)]
    exact hexDigit_range _
  · rw [formatState_get_odd q (by omega)]
    exact hexDigit_range _

/-- The letters' codes begin above the digits'. -/
theorem hexDigit_injective : Function.Injective hexDigit := by
  intro v v' h
  have hval := congrArg BitVec.toNat h
  rw [hexDigit_toNat, hexDigit_toNat] at hval
  apply BitVec.eq_of_toNat_eq
  split_ifs at hval <;> omega

theorem byte_eq_of_nibbles {b b' : Byte} (hhigh : b.extractLsb' 4 4 = b'.extractLsb' 4 4)
    (hlow : b.extractLsb' 0 4 = b'.extractLsb' 0 4) : b = b' := by
  have hdiv := congrArg BitVec.toNat hhigh
  have hmod := congrArg BitVec.toNat hlow
  rw [highNibble_toNat, highNibble_toNat] at hdiv
  rw [lowNibble_toNat, lowNibble_toNat] at hmod
  apply BitVec.eq_of_toNat_eq
  omega

theorem word_eq_of_bytes {w w' : Word} (h : ∀ p, p < 4 → byteOfWord w p = byteOfWord w' p) : w = w' := by
  have hbyte (p : Nat) (hp : p < 4) : w.toNat / 2 ^ (8 * p) % 256 = w'.toNat / 2 ^ (8 * p) % 256 := by
    rw [← byteOfWord_toNat, ← byteOfWord_toNat, h p hp]
  have h0 := hbyte 0 (by decide)
  have h1 := hbyte 1 (by decide)
  have h2 := hbyte 2 (by decide)
  have h3 := hbyte 3 (by decide)
  have hw := w.isLt
  have hw' := w'.isLt
  apply BitVec.eq_of_toNat_eq
  omega

/-- The characters determine each digest byte. -/
theorem serialize_get_of_formatState_eq {q q' : Quad} (h : formatState q = formatState q') {n : Nat} (hn : n < 16) :
    (serialize q)[n] = (serialize q')[n] := by
  apply byte_eq_of_nibbles
  · apply hexDigit_injective
    rw [← formatState_get_even q hn, ← formatState_get_even q' hn]
    simp only [h]
  · apply hexDigit_injective
    rw [← formatState_get_odd q hn, ← formatState_get_odd q' hn]
    simp only [h]

theorem word_of_formatState_eq {q q' : Quad} (h : formatState q = formatState q') (w : Fin 4) :
    q.word w = q'.word w := by
  apply word_eq_of_bytes
  intro p hp
  rw [← serialize_get_word q w hp, ← serialize_get_word q' w hp]
  exact serialize_get_of_formatState_eq h _

/-- Settles O38: the characters determine the bytes, and the bytes the words. -/
theorem outputDeterminesState : Obligations.OutputDeterminesState := by
  intro q q' h
  have ha : q.a = q'.a := word_of_formatState_eq h 0
  have hb : q.b = q'.b := word_of_formatState_eq h 1
  have hc : q.c = q'.c := word_of_formatState_eq h 2
  have hd : q.d = q'.d := word_of_formatState_eq h 3
  cases q
  cases q'
  cases ha
  cases hb
  cases hc
  cases hd
  rfl

end Sys2Proof.Machine
end

section
/-! What the host reads: the register map's offsets (10_state.md R32 to R38), STATUS as the sum of its fields (R34),
and the place of the window (20_memory.md R49). -/

namespace Sys2Proof.Machine

open Sys2Proof Host

section StatusFields

variable {acc : Word} {k n : Nat}

/-- A field put above the bits in use is added, and the bits in use now end above it. -/
theorem or_field_toNat (f : BitVec n) (hacc : acc.toNat < 2 ^ k) (hfit : k + n ≤ 32) :
    (acc ||| (f.setWidth 32 <<< k)).toNat = acc.toNat + 2 ^ k * f.toNat ∧
    (acc ||| (f.setWidth 32 <<< k)).toNat < 2 ^ (k + n) := by
  have hf : f.toNat + 1 ≤ 2 ^ n := f.isLt
  have hprod : 2 ^ k * f.toNat + 2 ^ k ≤ 2 ^ (k + n) := by
    rw [pow_add]
    exact Nat.mul_le_mul_left (2 ^ k) hf
  have hword : 2 ^ (k + n) ≤ 2 ^ 32 := Nat.pow_le_pow_right (by decide) hfit
  have hsmall : f.toNat % 2 ^ 32 = f.toNat :=
    Nat.mod_eq_of_lt (lt_of_lt_of_le f.isLt (Nat.pow_le_pow_right (by decide) (by omega)))
  have hshift : (f.setWidth 32 <<< k).toNat = 2 ^ k * f.toNat := by
    rw [BitVec.toNat_shiftLeft, BitVec.toNat_setWidth, hsmall, Nat.shiftLeft_eq, Nat.mul_comm]
    apply Nat.mod_eq_of_lt
    have := Nat.two_pow_pos k
    omega
  have hsum : (acc ||| (f.setWidth 32 <<< k)).toNat = acc.toNat + 2 ^ k * f.toNat := by
    rw [BitVec.toNat_or, hshift, Nat.or_comm, ← Nat.two_pow_add_eq_or_of_lt hacc, Nat.add_comm]
  exact ⟨hsum, by omega⟩

/-- A flag put above the bits in use. -/
theorem or_bitWord_toNat (b : Bool) (hacc : acc.toNat < 2 ^ k) (hfit : k + 1 ≤ 32) :
    (acc ||| (bitWord b <<< k)).toNat = acc.toNat + 2 ^ k * b.toNat ∧
    (acc ||| (bitWord b <<< k)).toNat < 2 ^ (k + 1) := by
  have h := or_field_toNat (BitVec.ofBool b) hacc hfit
  rwa [BitVec.toNat_ofBool] at h

end StatusFields

theorem busy_toNat (e : Engine) : e.busy.toNat = if e.seq = .rest then 0 else 1 := by
  split_ifs with hrest
  · rw [not_busy_iff.2 hrest]
    rfl
  · rw [busy_iff.2 hrest]
    rfl

/-- R34's formula as a sum: each field begins where the one before it ends. -/
theorem status_toNat (e : Engine) :
    e.status.toNat < 2 ^ 23 ∧ e.status.toNat =
      e.phase.code.toNat + 2 ^ 2 * e.busy.toNat + 2 ^ 3 * e.errOpc.toNat + 2 ^ 4 * e.errSeq.toNat
        + 2 ^ 5 * e.errBusy.toNat + 2 ^ 6 * e.cnt.toNat + 2 ^ 12 * e.seq.code.toNat + 2 ^ 15 * e.i.toNat
        + 2 ^ 21 * e.fin.code.toNat := by
  have hphase : (e.phase.code.setWidth 32).toNat = e.phase.code.toNat := by cases e.phase <;> rfl
  have lphase : (e.phase.code.setWidth 32).toNat < 2 ^ 2 := hphase.trans_lt e.phase.code.isLt
  obtain ⟨hbusy, lbusy⟩ := or_bitWord_toNat e.busy lphase (by decide)
  obtain ⟨hopc, lopc⟩ := or_bitWord_toNat e.errOpc lbusy (by decide)
  obtain ⟨hseq, lseq⟩ := or_bitWord_toNat e.errSeq lopc (by decide)
  obtain ⟨hbsy, lbsy⟩ := or_bitWord_toNat e.errBusy lseq (by decide)
  obtain ⟨hcnt, lcnt⟩ := or_field_toNat e.cnt lbsy (by decide)
  obtain ⟨hcode, lcode⟩ := or_field_toNat e.seq.code lcnt (by decide)
  obtain ⟨hi, li⟩ := or_field_toNat e.i lcode (by decide)
  obtain ⟨hfin, lfin⟩ := or_field_toNat e.fin.code li (by decide)
  refine ⟨lfin, ?_⟩
  rw [Engine.status, hfin, hi, hcode, hcnt, hbsy, hseq, hopc, hbusy, hphase]

/-- Settles O42: the codes, and STATUS as the sum of its fields. -/
theorem statusWordFields : Obligations.StatusWordFields := by
  refine ⟨⟨rfl, rfl, rfl, rfl⟩, ⟨rfl, rfl, rfl, rfl, rfl, rfl, rfl⟩, ⟨rfl, rfl, rfl⟩, fun e => ?_⟩
  have h := status_toNat e
  rwa [busy_toNat] at h

/-- HEXw stands at 0x20 + 4w (10_state.md R32). -/
theorem accessReg_hex : ∀ w : Fin 8, accessReg ⟨32, 0x20 + 4 * w.val⟩ = some (.hex w) := by
  decide

/-- Settles O39: an admitted read is answered with its register's value, a register at a time. -/
theorem readsReturnRegisters : Obligations.ReadsReturnRegisters := by
  intro s rest off v hev hvalue
  rw [step_busRead hev]
  have answer {r : Reg} (hreg : accessReg ⟨32, off⟩ = some r) (hv : v = readReg s.engine r) :
      busRead ⟨32, off⟩ { s with events := rest } =
        .next { s with events := rest, readLog := v :: s.readLog } := by
    rw [busRead_of_reg hreg, hv]
  rcases hvalue with ⟨rfl, hv⟩ | ⟨rfl, hv⟩ | ⟨rfl, hv⟩ | ⟨rfl, hv⟩ | ⟨rfl, hv⟩ | ⟨rfl, hv⟩ | ⟨rfl, hv⟩ | ⟨rfl, hv⟩ |
    ⟨w, hw, rfl, hv⟩
  · exact answer (r := .cmd) rfl hv
  · exact answer (r := .status) rfl hv
  · refine answer (r := .lenLo) rfl (BitVec.eq_of_toNat_eq ?_)
    rw [hv, readReg, BitVec.extractLsb'_toNat, Nat.shiftRight_zero]
  · refine answer (r := .lenHi) rfl (BitVec.eq_of_toNat_eq ?_)
    have hlen := s.engine.len.isLt
    rw [hv, readReg, BitVec.extractLsb'_toNat, Nat.shiftRight_eq_div_pow]
    omega
  · exact answer (r := .stateA) rfl hv
  · exact answer (r := .stateB) rfl hv
  · exact answer (r := .stateC) rfl hv
  · exact answer (r := .stateD) rfl hv
  · refine answer (r := .hex ⟨w, hw⟩) (accessReg_hex ⟨w, hw⟩) (BitVec.eq_of_toNat_eq ?_)
    rw [hv, readReg, Engine.hexWord, le32_toNat]

/-- Settles O43: the base is a multiple of 64, so of 4. -/
theorem windowAddressesAreOffsets : Obligations.WindowAddressesAreOffsets := by
  intro bits addr
  have hbase : Config.engineBase = 64 * Config.engineSlot := rfl
  unfold accessAtAddress
  split_ifs with hin
  · refine ⟨fun acc hacc => ?_, ?_⟩
    · cases hacc
      refine ⟨?_, rfl, ?_, ?_⟩
      all_goals dsimp only; omega
    · simp only [false_iff]
      omega
  · refine ⟨fun acc hacc => ?_, ?_⟩
    · cases hacc
    · simp only [true_iff]
      omega

end Sys2Proof.Machine
end

section
/-! The tables of the compression function (43_compression.md R101, R102) and the blocks of the padded message
(40_padder_segmenter.md R74). -/

namespace Sys2Proof.Machine

open Sys2Proof Host

theorem sTable_of_round (i : BitVec 6) {r : Nat} (h : i.toNat / 16 = r) :
    sTable i = (sRound r).getD (i.toNat % 4) 0 := by
  rw [sTable, h]

/-- Settles O58: T is the four rounds' lists, and the index's sixteenth names the cycle of S. -/
theorem tablesHoldTheListedValues : Obligations.TablesHoldTheListedValues := by
  refine ⟨rfl, fun i => ?_⟩
  have hi := i.isLt
  exact ⟨fun h => sTable_of_round i (r := 0) (by omega), fun _ _ => sTable_of_round i (r := 1) (by omega),
    fun _ _ => sTable_of_round i (r := 2) (by omega), fun _ => sTable_of_round i (r := 3) (by omega)⟩

theorem msgIndex_val (i : BitVec 6) : (msgIndex i).val =
    if i.toNat < 16 then i.toNat else if i.toNat < 32 then (5 * i.toNat + 1) % 16
    else if i.toNat < 48 then (3 * i.toNat + 5) % 16 else 7 * i.toNat % 16 := by
  unfold msgIndex
  split_ifs with h
  · exact Nat.mod_eq_of_lt h
  all_goals rfl

/-- Settles O32: the formulas, and the sixteen steps of each round counted. -/
theorem eachRoundReadsEachWordOnce : Obligations.EachRoundReadsEachWordOnce :=
  ⟨msgIndex_val, by decide⟩

theorem blockAt_toList (p : List Byte) {q : Nat} (h : 64 * (q + 1) ≤ p.length) :
    (blockAt p q).toList = (p.drop (64 * q)).take 64 := by
  apply List.ext_getElem
  · rw [Vector.length_toList, List.length_take, List.length_drop]
    omega
  · intro x hx hx'
    rw [Vector.length_toList] at hx
    have hget : 64 * q + x < p.length := by omega
    simp [blockAt, hget]

/-- The first n blocks, joined, are the bytes up to the n-th block's end. -/
theorem flatMap_blockAt (p : List Byte) {n : Nat} (h : 64 * n ≤ p.length) :
    (List.range n).flatMap (fun q => (blockAt p q).toList) = p.take (64 * n) := by
  induction n with
  | zero => rfl
  | succ n ih =>
    rw [List.range_succ, List.flatMap_append, ih (by omega), List.flatMap_singleton, blockAt_toList p h,
      ← List.take_add]
    rfl

/-- The segments of whole blocks, joined, are all of them (R74). -/
theorem segment_flatMap {p : List Byte} {n : Nat} (h : p.length = 64 * n) :
    (segment p).flatMap (fun blk => blk.toList) = p := by
  have hcount : p.length / 64 = n := by omega
  rw [segment, hcount, List.flatMap_map, flatMap_blockAt p h.ge, ← h, List.take_length]

theorem pad_length_blocks (m : List Byte) : (pad m).length = 64 * blockCount m.length := by
  rw [pad_length, paddedLength_eq_blocks]

/-- Settles O35: the padded message is whole blocks, as many as R72 says. -/
theorem segmentsAreThePaddedMessage : Obligations.SegmentsAreThePaddedMessage := by
  intro m
  refine ⟨?_, segment_flatMap (pad_length_blocks m)⟩
  rw [segment, List.length_map, List.length_range, pad_length_blocks]
  exact Nat.mul_div_cancel_left _ (by decide)

end Sys2Proof.Machine
end

section
/-! The host's accesses to a busy engine (46_sequencer.md R155, 60_exceptions.md R166): they can set ERR_BUSY, and no
turn of the engine reads that bit. -/

namespace Sys2Proof.Machine

open Sys2Proof Host

/-- The engine with ERR_BUSY at a given value. -/
def setErrBusy (b : Bool) (e : Engine) : Engine := { e with errBusy := b }

@[simp] theorem setErrBusy_seq (b : Bool) (e : Engine) : (setErrBusy b e).seq = e.seq := rfl

@[simp] theorem setErrBusy_setErrBusy (b b' : Bool) (e : Engine) : setErrBusy b (setErrBusy b' e) = setErrBusy b e :=
  rfl

@[simp] theorem setErrBusy_remaining (b : Bool) (e : Engine) : (setErrBusy b e).remaining = e.remaining := rfl

theorem setErrBusy_self (e : Engine) : setErrBusy e.errBusy e = e := rfl

/-- A turn neither reads nor writes ERR_BUSY. -/
theorem microEffect_setErrBusy (b : Bool) : Function.Commute microEffect (setErrBusy b) := by
  intro e
  have hkept := setErrBusy_seq b e
  cases hseq : e.seq with
  | rest => rw [microEffect_rest hseq, microEffect_rest (hkept.trans hseq)]
  | load => rw [microEffect_load hseq, microEffect_load (hkept.trans hseq)]; rfl
  | step =>
    rw [microEffect_step hseq, microEffect_step (hkept.trans hseq), stepEngine, stepEngine, apply_ite (setErrBusy b)]
    rfl
  | fold => rw [microEffect_fold hseq, microEffect_fold (hkept.trans hseq)]; rfl
  | padA =>
    rw [microEffect_padA hseq, microEffect_padA (hkept.trans hseq), padAEngine, padAEngine, apply_ite (setErrBusy b)]
    rfl
  | padB => rw [microEffect_padB hseq, microEffect_padB (hkept.trans hseq)]; rfl
  | format => rw [microEffect_format hseq, microEffect_format (hkept.trans hseq)]; rfl

theorem iterate_microEffect_setErrBusy (n : Nat) (b : Bool) (e : Engine) :
    microEffect^[n] (setErrBusy b e) = setErrBusy b (microEffect^[n] e) :=
  (microEffect_setErrBusy b).iterate_left n e

/-- An event of the engine, or an access that the spec admits. -/
def Event.hostOrEngine (ev : Event) : Prop :=
  ev = .engine ∨ (∃ acc, acc.wf = true ∧ ev = .busRead acc) ∨ ∃ acc w, acc.wf = true ∧ ev = .busWrite acc w

/-- An access of a busy engine changes ERR_BUSY at the most. -/
theorem step_access_of_busy {s : State} {ev : Event} {rest : List Event} (hev : s.events = ev :: rest)
    (hbusy : s.engine.seq ≠ .rest) (hkind : ev.hostOrEngine) (hne : ev ≠ .engine) :
    ∃ t b, step s = .next t ∧ t.events = rest ∧ t.engine = setErrBusy b s.engine := by
  rcases hkind with rfl | ⟨acc, hwf, rfl⟩ | ⟨acc, w, hwf, rfl⟩
  · exact absurd rfl hne
  · obtain ⟨r, hreg⟩ := accessReg_of_wf hwf
    exact ⟨_, s.engine.errBusy, (step_busRead hev).trans (busRead_of_reg hreg), rfl, (setErrBusy_self _).symm⟩
  · rcases busWrite_of_wf (s := { s with events := rest }) w hwf with heq | heq
    · exact ⟨_, true, (step_busWrite hev).trans heq, rfl, commandEffect_of_busy hbusy⟩
    · exact ⟨_, s.engine.errBusy, (step_busWrite hev).trans heq, rfl, (setErrBusy_self _).symm⟩

/-- Each of the events comes before the `n`-th turn of the engine is over: none meets an engine that has done all of
its `n` micro-operations. -/
def MeetBusy (es : List Event) (n : Nat) : Prop :=
  ∀ pre ev post, es = pre ++ ev :: post → pre.count .engine < n

section MeetBusy

variable {ev : Event} {es : List Event} {n : Nat}

theorem meetBusy_head (h : MeetBusy (ev :: es) n) : 0 < n := h [] ev es rfl

theorem meetBusy_tail_engine (h : MeetBusy (.engine :: es) (n + 1)) : MeetBusy es n := by
  intro pre ev post hsplit
  have hcount := h (.engine :: pre) ev post (congrArg (Event.engine :: ·) hsplit)
  rw [List.count_cons_self] at hcount
  exact Nat.lt_of_succ_lt_succ hcount

theorem meetBusy_tail (hne : ev ≠ .engine) (h : MeetBusy (ev :: es) n) : MeetBusy es n := by
  intro pre ev' post hsplit
  have hcount := h (ev :: pre) ev' post (congrArg (ev :: ·) hsplit)
  rwa [List.count_cons_of_ne hne] at hcount

/-- Fewer turns than the engine has left, or all of them with the last one at the end. -/
theorem meetBusy_of_count
    (h : es.count .engine < n ∨ es.count .engine = n ∧ es.getLast? = some .engine) : MeetBusy es n := by
  rintro pre ev post rfl
  rw [List.count_append] at h
  rcases h with hlt | ⟨heq, hlast⟩
  · omega
  · rw [List.getLast?_append_of_ne_nil _ (List.cons_ne_nil _ _)] at hlast
    have hturn : 0 < (ev :: post).count .engine := List.count_pos_iff.2 (List.mem_of_getLast? hlast)
    omega

end MeetBusy

/-- The events among which every one meets a busy engine, run: the turns do what they would alone, and the accesses
change ERR_BUSY at the most. -/
theorem run_meetBusy {es rest : List Event} {s : State} (hev : s.events = es ++ rest)
    (hkind : ∀ ev ∈ es, ev.hostOrEngine) (hbusy : MeetBusy es s.engine.remaining) :
    ∃ t b, Host.Core.run Sys2Proof.core es.length s = .next t ∧ t.events = rest ∧
      t.engine = setErrBusy b (microEffect^[es.count .engine] s.engine) := by
  induction es generalizing s with
  | nil => exact ⟨s, s.engine.errBusy, rfl, hev, rfl⟩
  | cons ev es ih =>
    have hrest : s.engine.seq ≠ .rest := mt remaining_eq_zero_iff.2 (meetBusy_head hbusy).ne'
    have hkind' : ∀ ev ∈ es, ev.hostOrEngine := fun ev' hmem => hkind ev' (List.mem_cons_of_mem _ hmem)
    by_cases hturn : ev = .engine
    · subst hturn
      rw [← microEffect_remaining hrest] at hbusy
      obtain ⟨t, b, hrun, hevents, heng⟩ := ih (s := { s with events := es ++ rest }.onEngine microEffect) rfl hkind'
        (meetBusy_tail_engine hbusy)
      refine ⟨t, b, (run_succ (step_engine hev)).trans hrun, hevents, ?_⟩
      rw [heng, List.count_cons_self, Function.iterate_succ_apply]
      rfl
    · obtain ⟨u, b', hstep, huev, hueng⟩ := step_access_of_busy hev hrest (hkind ev List.mem_cons_self) hturn
      have hleft : u.engine.remaining = s.engine.remaining := by rw [hueng, setErrBusy_remaining]
      obtain ⟨t, b, hrun, hevents, heng⟩ := ih huev hkind' (hleft ▸ meetBusy_tail hturn hbusy)
      refine ⟨t, b, (run_succ hstep).trans hrun, hevents, ?_⟩
      rw [heng, hueng, iterate_microEffect_setErrBusy, setErrBusy_setErrBusy, List.count_cons_of_ne hturn]

/-- Settles O52: every event of the list meets a busy engine. -/
theorem hostCannotDisturbBusyEngine : Obligations.HostCannotDisturbBusyEngine := by
  intro s es rest hev hkind hcount
  obtain ⟨t, b, hrun, hevents, heng⟩ := run_meetBusy hev hkind (meetBusy_of_count hcount)
  refine ⟨t, _, hrun, hevents, engineTurns_eq _ s, ?_⟩
  rw [heng]
  rfl

end Sys2Proof.Machine
end

section
/-! The engine against the document's function (40_padder_segmenter.md R75, 44_output_formatter.md R118): each WRITE
takes in one byte, and FINISH makes the padding blocks of the message. -/

namespace Sys2Proof.Machine

open Sys2Proof Host

section Blocks

variable (p r : List Byte)

theorem blockAt_get (q : Nat) {x : Nat} (hx : x < 64) : (blockAt p q)[x] = p.getD (64 * q + x) 0 := by
  simp only [blockAt, Vector.getElem_ofFn]

/-- What follows a whole block does not change it. -/
theorem blockAt_append {q : Nat} (h : 64 * (q + 1) ≤ p.length) : blockAt (p ++ r) q = blockAt p q := by
  apply Vector.ext
  intro x hx
  have hmem : 64 * q + x < p.length := by omega
  rw [blockAt_get _ q hx, blockAt_get _ q hx, List.getD_append _ _ _ _ hmem]

/-- The whole blocks of a longer byte sequence are those it began with and the new ones. -/
theorem segment_append {j : Nat} (h : (p ++ r).length / 64 = p.length / 64 + j) :
    segment (p ++ r) = segment p ++ (List.range j).map fun q => blockAt (p ++ r) (p.length / 64 + q) := by
  have hold : (List.range (p.length / 64)).map (blockAt (p ++ r)) = segment p := by
    apply List.map_congr_left
    intro q hq
    have hwhole : 64 * (q + 1) ≤ p.length := by
      have := List.mem_range.1 hq
      omega
    exact blockAt_append p r hwhole
  rw [segment, h, List.range_add, List.map_append, hold, List.map_map]
  rfl

end Blocks

/-- An engine that has taken in a message is ready for a command: ACCUM, at REST. -/
theorem absorbed_ready {m : List Byte} {e : Engine} (h : Absorbed m e) : e.phase = .accum ∧ e.seq = .rest := by
  obtain ⟨hphase, hrest, -⟩ := h
  exact ⟨hphase, hrest⟩

/-- START: nothing is taken in, and the IV is folded over no block. -/
theorem startEngine_absorbed {e : Engine} (hrest : e.seq = .rest) : Absorbed [] (startEngine e) := by
  rw [startEngine_of_rest hrest]
  exact ⟨rfl, rfl, rfl, rfl, rfl, rfl, rfl, fun p _ hp => absurd hp (Nat.not_lt_zero p), rfl⟩

/-- Settles O53, by START's effect. -/
theorem startOpensEmptyMessage : Obligations.StartOpensEmptyMessage :=
  fun _ hrest => ⟨_, exec_start_eq hrest, startEngine_absorbed hrest⟩

section Write

variable {m : List Byte} {x : Byte} {e : Engine}

theorem len_ofNat_succ (l : Nat) : BitVec.ofNat 64 l + 1 = BitVec.ofNat 64 (l + 1) :=
  (BitVec.ofNat_add l 1).symm

/-- WRITE's buffer holds what is left of the message and the new byte after it. -/
theorem putByte_absorbed (h : Absorbed m e) (p : Nat) (hp : p < 64) (hle : p ≤ m.length % 64) :
    (putByte e.buf e.cnt x)[p] = (m ++ [x]).getD (64 * (m.length / 64) + p) 0 := by
  obtain ⟨-, -, -, -, -, hcnt, -, hbuf, -⟩ := h
  rw [putByte_get, hcnt]
  split_ifs with hlast
  · have hend : 64 * (m.length / 64) + p = m.length := by omega
    rw [hend, List.getD_append_right _ _ _ _ le_rfl, Nat.sub_self]
    rfl
  · have hmem : 64 * (m.length / 64) + p < m.length := by omega
    rw [hbuf p hp (by omega), List.getD_append _ _ _ _ hmem]

/-- A byte that does not fill the block: the whole blocks of the message stay as they are. -/
theorem writeEngine_absorbed (h : Absorbed m e) (hpart : m.length % 64 ≠ 63) :
    Absorbed (m ++ [x]) (writeEngine x e) := by
  have hput := putByte_absorbed (x := x) h
  obtain ⟨hphase, hrest, hfin, hi, hlen, hcnt, hsrf, -, hhex⟩ := h
  have hne : e.cnt ≠ 63 := by
    rw [Ne, sixBit_eq_last_iff, hcnt]
    exact hpart
  have hlength : (m ++ [x]).length = m.length + 1 := List.length_append
  have hblocks : (m ++ [x]).length / 64 = m.length / 64 := by omega
  have hsegment : segment (m ++ [x]) = segment m := by
    rw [segment_append m [x] (j := 0) hblocks, List.range_zero, List.map_nil, List.append_nil]
  refine ⟨?_, ?_, ?_, ?_, ?_, ?_, ?_, ?_, ?_⟩
  · rw [writeEngine_phase, hphase]
  · rw [writeEngine_seq, if_neg hne, hrest]
  · rw [writeEngine_fin, if_neg hne, hfin]
  · rw [writeEngine_i, hi]
  · rw [writeEngine_len, hlen, hlength, len_ofNat_succ]
  · rw [writeEngine_cnt, if_neg hne, sixBit_succ_toNat (sixBit_lt_of_ne_last hne), hcnt, hlength]
    omega
  · rw [writeEngine_srf, hsegment, hsrf]
  · intro p hp hpos
    simp only [writeEngine_buf, hblocks]
    exact hput p hp (by omega)
  · rw [writeEngine_hex, hhex]

/-- A byte that fills the block: the block is in the buffer, and the 66 micro-operations fold it into the SRF. -/
theorem writeEngine_block_absorbed (h : Absorbed m e) (hfull : m.length % 64 = 63) :
    Absorbed (m ++ [x]) (microEffect^[66] (writeEngine x e)) := by
  have hput := putByte_absorbed (x := x) h
  obtain ⟨hphase, -, -, -, hlen, hcnt, hsrf, -, hhex⟩ := h
  have hlast : e.cnt = 63 := (sixBit_eq_last_iff _).2 (hcnt.trans hfull)
  have hlength : (m ++ [x]).length = m.length + 1 := List.length_append
  have hblocks : (m ++ [x]).length / 64 = m.length / 64 + 1 := by omega
  have hblock : putByte e.buf e.cnt x = blockAt (m ++ [x]) (m.length / 64) := by
    apply Vector.ext
    intro p hp
    rw [hput p hp (by omega), blockAt_get _ _ hp]
  have hsegment : segment (m ++ [x]) = segment m ++ [putByte e.buf e.cnt x] := by
    rw [segment_append m [x] hblocks, hblock]
    rfl
  have hempty : (m ++ [x]).length % 64 = 0 := by omega
  rw [microEffect_iterate_block (by rw [writeEngine_seq, if_pos hlast])]
  refine ⟨?_, ?_, ?_, rfl, ?_, ?_, ?_, ?_, ?_⟩ <;> dsimp only
  · rw [writeEngine_phase, hphase]
  · rw [writeEngine_fin, if_pos hlast]
    rfl
  · rw [writeEngine_fin, if_pos hlast]
  · rw [writeEngine_len, hlen, hlength, len_ofNat_succ]
  · rw [writeEngine_cnt, if_pos hlast, hempty]
    rfl
  · rw [writeEngine_srf, writeEngine_buf, hsegment, hsrf, foldCompress, foldCompress, List.foldl_append]
    rfl
  · intro p _ hpos
    omega
  · rw [writeEngine_hex, hhex]

end Write

/-- Settles O54, by WRITE's effect. -/
theorem writeIsAbsorbed : Obligations.WriteIsAbsorbed := by
  intro m x s h hpart
  obtain ⟨hphase, hrest⟩ := absorbed_ready h
  exact ⟨_, exec_write_eq hrest hphase x, writeEngine_absorbed h hpart⟩

/-- Settles O55, by WRITE's effect and the block sub-program. -/
theorem blockFillingWriteIsAbsorbed : Obligations.BlockFillingWriteIsAbsorbed := by
  intro m x s h hfull
  obtain ⟨hphase, hrest⟩ := absorbed_ready h
  exact ⟨_, _, exec_write_eq hrest hphase x, engineTurns_eq 66 _, writeEngine_block_absorbed h hfull⟩

section PaddingBlocks

variable {m : List Byte} {e : Engine}

/-- PAD_A makes the block of the padded message in which the message ends (40_padder_segmenter.md R73, R75). -/
theorem padFirst_eq_blockAt (h : Absorbed m e) :
    padFirst e.buf e.cnt e.len = blockAt (pad m) (m.length / 64) := by
  obtain ⟨-, -, -, -, hlen, hcnt, -, hbuf, -⟩ := h
  have htotal := paddedLength_eq_blocks m.length
  unfold blockCount at htotal
  apply Vector.ext
  intro p hp
  rw [blockAt_get _ _ hp, padFirst_get, hcnt, hlen, List.getD_eq_getElem?_getD]
  split_ifs with hfield hmsg hmark
  · rw [pad_getElem?_lengthField m (by omega) (by omega), Option.getD_some]
    congr 1
    omega
  · rw [pad_getElem?_message m (by omega), Option.getD_some, hbuf p hp hmsg]
  · have hend : 64 * (m.length / 64) + p = m.length := by omega
    rw [hend, pad_getElem?_marker, Option.getD_some]
  · rw [pad_getElem?_zero m (by omega) (by omega), Option.getD_some]

/-- PAD_B makes the padded message's last block, when the length did not fit into the one before it. -/
theorem padSecond_eq_blockAt (buf : Vector Byte 64) (hlong : 55 < m.length % 64) :
    padSecond buf (BitVec.ofNat 64 m.length) = blockAt (pad m) (m.length / 64 + 1) := by
  have htotal := paddedLength_eq_blocks m.length
  unfold blockCount at htotal
  apply Vector.ext
  intro p hp
  rw [blockAt_get _ _ hp, padSecond_get, List.getD_eq_getElem?_getD]
  split_ifs with hfield
  · rw [pad_getElem?_lengthField m (by omega) (by omega), Option.getD_some]
    congr 1
    omega
  · rw [pad_getElem?_zero m (by omega) (by omega), Option.getD_some]

/-- The padded message's blocks: the message's whole ones, and `j` more. -/
theorem segment_pad {j : Nat} (h : blockCount m.length = m.length / 64 + j) :
    segment (pad m) = segment m ++ (List.range j).map fun q => blockAt (pad m) (m.length / 64 + q) := by
  have hpad : pad m = m ++ ([0x80] ++ (List.replicate (zeroCount m.length) 0x00 ++
      le64bytes (bitLength (BitVec.ofNat 64 m.length)))) := by
    simp only [pad, List.append_assoc]
  have hcount : (pad m).length / 64 = m.length / 64 + j := by
    rw [pad_length_blocks, h]
    exact Nat.mul_div_cancel_left _ (by decide)
  rw [hpad] at hcount ⊢
  exact segment_append m _ hcount

/-- The final state of a message whose padding fits into one block. -/
theorem digestState_of_short (hshort : m.length % 64 ≤ 55) :
    digestState m = compress (foldCompress iv (segment m)) (blockAt (pad m) (m.length / 64)) := by
  have hcount : blockCount m.length = m.length / 64 + 1 := by
    unfold blockCount
    omega
  rw [digestState, segment_pad hcount, foldCompress, foldCompress, List.foldl_append]
  rfl

/-- The final state of a message whose padding takes two blocks. -/
theorem digestState_of_long (hlong : 55 < m.length % 64) :
    digestState m = compress (compress (foldCompress iv (segment m)) (blockAt (pad m) (m.length / 64)))
      (blockAt (pad m) (m.length / 64 + 1)) := by
  have hcount : blockCount m.length = m.length / 64 + 2 := by
    unfold blockCount
    omega
  rw [digestState, segment_pad hcount, foldCompress, foldCompress, List.foldl_append]
  rfl

end PaddingBlocks

/-- What the padding needs to know of a block's 66 micro-operations (46_sequencer.md R149). -/
theorem microEffect_iterate_block_fields {e : Engine} (hseq : e.seq = .load) :
    (microEffect^[66] e).srf = compress e.srf e.buf ∧ (microEffect^[66] e).seq = afterFold e.fin ∧
    (microEffect^[66] e).i = 0 ∧ (microEffect^[66] e).len = e.len ∧ (microEffect^[66] e).cnt = e.cnt := by
  rw [microEffect_iterate_block hseq]
  exact ⟨rfl, rfl, rfl, rfl, rfl⟩

theorem finished_of_digestDone {m : List Byte} {e : Engine} (h : DigestDone m e) :
    e.finished = true ∧ e.seq = .rest := by
  obtain ⟨hphase, hrest, -⟩ := h
  rw [Engine.finished, hphase, hrest]
  exact ⟨rfl, rfl⟩

/-- From the LOAD of the last block to the end: its 66 micro-operations, and FORMAT. -/
theorem digestDone_of_last_block {m : List Byte} {e : Engine} (hseq : e.seq = .load) (hfin : e.fin = .last)
    (hlen : e.len = BitVec.ofNat 64 m.length) (hcnt : e.cnt = 0) (hsrf : compress e.srf e.buf = digestState m) :
    DigestDone m (microEffect^[67] e) := by
  obtain ⟨hsrf', hseq', hi', hlen', hcnt'⟩ := microEffect_iterate_block_fields hseq
  have hformat : (microEffect^[66] e).seq = .format := by rw [hseq', hfin, afterFold]
  rw [Function.iterate_succ_apply', microEffect_format hformat]
  refine ⟨formatEngine_phase _, formatEngine_seq _, formatEngine_fin _, ?_, ?_, ?_, ?_, ?_⟩
  · rw [formatEngine_i, hi']
  · rw [formatEngine_len, hlen', hlen]
  · rw [formatEngine_cnt, hcnt', hcnt]
  · rw [formatEngine_srf, hsrf', hsrf]
  · rw [formatEngine_hex, hsrf', hsrf, digest]

section Finish

variable {m : List Byte} {e : Engine} (h : Absorbed m e)

include h

/-- FINISH of a message whose padding fits into one block: PAD_A, the block and FORMAT. -/
theorem finishEngine_digestDone_of_short (hshort : m.length % 64 ≤ 55) :
    DigestDone m (microEffect^[68] (finishEngine e)) := by
  have hblock := padFirst_eq_blockAt h
  obtain ⟨-, -, -, -, hlen, hcnt, hsrf, -, -⟩ := h
  rw [Function.iterate_succ_apply, microEffect_padA (finishEngine_seq e)]
  apply digestDone_of_last_block (padAEngine_seq _)
  · rw [padAEngine_fin, finishEngine_cnt, hcnt, if_pos hshort]
  · rw [padAEngine_len, finishEngine_len, hlen]
  · exact padAEngine_cnt _
  · rw [padAEngine_srf, padAEngine_buf, finishEngine_srf, finishEngine_buf, finishEngine_cnt, finishEngine_len,
      hblock, hsrf, digestState_of_short hshort]

/-- FINISH of a message whose padding takes two blocks: PAD_A, the first of them, PAD_B, the second and FORMAT. -/
theorem finishEngine_digestDone_of_long (hlong : 55 < m.length % 64) :
    DigestDone m (microEffect^[135] (finishEngine e)) := by
  have hblock := padFirst_eq_blockAt h
  obtain ⟨-, -, -, -, hlen, hcnt, hsrf, -, -⟩ := h
  obtain ⟨hsrf', hseq', -, hlen', hcnt'⟩ :=
    microEffect_iterate_block_fields (padAEngine_seq (finishEngine e))
  have hmore : (padAEngine (finishEngine e)).fin = .more := by
    rw [padAEngine_fin, finishEngine_cnt, hcnt, if_neg (Nat.not_le.2 hlong)]
  have hpadB : (microEffect^[66] (padAEngine (finishEngine e))).seq = .padB := by rw [hseq', hmore, afterFold]
  rw [Function.iterate_add_apply _ 67 68, Function.iterate_succ_apply _ 67,
    microEffect_padA (finishEngine_seq e), Function.iterate_succ_apply' _ 66 (padAEngine _),
    microEffect_padB hpadB]
  apply digestDone_of_last_block (padBEngine_seq _) (padBEngine_fin _)
  · rw [padBEngine_len, hlen', padAEngine_len, finishEngine_len, hlen]
  · rw [padBEngine_cnt, hcnt', padAEngine_cnt]
  · rw [padBEngine_srf, padBEngine_buf, hsrf', hlen', padAEngine_srf, padAEngine_buf, padAEngine_len,
      finishEngine_srf, finishEngine_buf, finishEngine_cnt, finishEngine_len, hblock, hsrf, hlen,
      padSecond_eq_blockAt _ hlong, digestState_of_long hlong]

end Finish

/-- FINISH of a message taken in, and the micro-operations of its one or two padding blocks. -/
theorem finishEngine_digestDone {m : List Byte} {e : Engine} (h : Absorbed m e) :
    DigestDone m (microEffect^[if m.length % 64 ≤ 55 then 68 else 135] (finishEngine e)) := by
  split_ifs with hshort
  · exact finishEngine_digestDone_of_short h hshort
  · exact finishEngine_digestDone_of_long h (Nat.not_le.1 hshort)

/-- Settles O56, by FINISH's effect. -/
theorem finishYieldsDigest : Obligations.FinishYieldsDigest := by
  intro m s h
  obtain ⟨hphase, hrest⟩ := absorbed_ready h
  exact ⟨_, _, exec_finish_eq hrest hphase, engineTurns_eq _ _, finishEngine_digestDone h⟩

end Sys2Proof.Machine
end

section
/-! The host's protocol under every interleaving (45_host_commands.md R132, 20_memory.md R47): runs put together, the
events in between, the wait, and the induction over the message's bytes. -/

namespace Sys2Proof.Machine

open Sys2Proof Host

/-- Some number of steps leads from the one state to the other. -/
def Reaches (s t : State) : Prop := ∃ n, Host.Core.run Sys2Proof.core n s = .next t

section Reaches

variable {s t u : State}

theorem reaches_rfl : Reaches s s := ⟨0, rfl⟩

theorem reaches_of_step (hstep : step s = .next t) (h : Reaches t u) : Reaches s u := by
  obtain ⟨n, hrun⟩ := h
  exact ⟨n + 1, (run_succ hstep).trans hrun⟩

theorem reaches_trans (h : Reaches s t) (h' : Reaches t u) : Reaches s u := by
  obtain ⟨n, hrun⟩ := h
  induction n generalizing s with
  | zero =>
    cases hrun
    exact h'
  | succ n ih =>
    obtain ⟨v, hstep, hrest⟩ := run_succ_next hrun
    exact reaches_of_step hstep (ih hrest)

end Reaches

/-- The engine's own turns bring it to rest as `r`. -/
def SettlesTo (e r : Engine) : Prop := r.seq = .rest ∧ ∃ n, microEffect^[n] e = r

section SettlesTo

variable {e r : Engine}

theorem settlesTo_of_rest (hrest : e.seq = .rest) : SettlesTo e e := ⟨hrest, 0, rfl⟩

theorem rest_of_settlesTo (h : SettlesTo e r) : r.seq = .rest := by
  obtain ⟨hrest, -⟩ := h
  exact hrest

/-- An engine at rest is where it settles. -/
theorem eq_of_settlesTo (h : SettlesTo e r) (hrest : e.seq = .rest) : e = r := by
  obtain ⟨-, n, hn⟩ := h
  rw [← hn, Function.iterate_fixed (microEffect_rest hrest)]

end SettlesTo

/-- What a turn of the engine keeps. -/
def KeptByTurns (P : Engine → Prop) : Prop := ∀ e, P e → P (microEffect e)

/-- A turn taken early changes nothing of where the engine settles. -/
theorem settlesTo_keptByTurns (r : Engine) : KeptByTurns (SettlesTo · r) := by
  rintro e ⟨hrest, n, hn⟩
  refine ⟨hrest, n, ?_⟩
  rw [← Function.iterate_succ_apply, Function.iterate_succ_apply', hn, microEffect_rest hrest]

/-- An engine at rest has no turns. -/
theorem eq_keptByTurns {r : Engine} (hrest : r.seq = .rest) : KeptByTurns (· = r) := by
  rintro e rfl
  exact microEffect_rest hrest

/-- The events still to come that are not the ones in between. -/
def State.protocolEvents (s : State) : List Event := s.events.filter fun ev => !ev.passive

section Passive

variable {s : State} {P : Engine → Prop} (hturn : KeptByTurns P)

include hturn

/-- An event that may fall in between keeps what a turn of the engine keeps. -/
theorem step_passive {ev : Event} {rest : List Event} (hev : s.events = ev :: rest) (hpassive : ev.passive = true)
    (h : P s.engine) : ∃ t, step s = .next t ∧ t.events = rest ∧ P t.engine := by
  cases ev with
  | engine => exact ⟨_, step_engine hev, rfl, hturn _ h⟩
  | busRead acc =>
    obtain ⟨reg, hreg⟩ := accessReg_of_wf hpassive
    exact ⟨_, (step_busRead hev).trans (busRead_of_reg hreg), rfl, h⟩
  | _ => cases hpassive

theorem reaches_passive {pre rest : List Event} (hev : s.events = pre ++ rest)
    (hpassive : ∀ ev ∈ pre, ev.passive = true) (h : P s.engine) :
    ∃ t, Reaches s t ∧ t.events = rest ∧ P t.engine := by
  induction pre generalizing s with
  | nil => exact ⟨s, reaches_rfl, hev, h⟩
  | cons ev pre ih =>
    obtain ⟨u, hstep, huev, hu⟩ := step_passive hturn hev (hpassive ev List.mem_cons_self) h
    obtain ⟨t, hreach, htev, ht⟩ := ih huev (fun ev' hmem => hpassive ev' (List.mem_cons_of_mem _ hmem)) hu
    exact ⟨t, reaches_of_step hstep hreach, htev, ht⟩

/-- The events in between run out, and the protocol's next event is first. -/
theorem reaches_next_event {ev : Event} {es : List Event} (hes : s.protocolEvents = ev :: es) (h : P s.engine) :
    ∃ t rest, Reaches s t ∧ t.events = ev :: rest ∧ rest.filter (fun ev => !ev.passive) = es ∧ P t.engine := by
  obtain ⟨pre, rest, hev, hpre, -, hrest⟩ := List.filter_eq_cons_iff.1 hes
  have hpassive : ∀ ev ∈ pre, ev.passive = true := fun ev' hmem => by simpa using hpre ev' hmem
  obtain ⟨t, hreach, htev, ht⟩ := reaches_passive hturn hev hpassive h
  exact ⟨t, rest, hreach, htev, hrest, ht⟩

/-- No event of the protocol is left: the events in between run out. -/
theorem reaches_end (hes : s.protocolEvents = []) (h : P s.engine) :
    ∃ t, Reaches s t ∧ t.events = [] ∧ P t.engine := by
  have hpassive : ∀ ev ∈ s.events, ev.passive = true := fun ev hmem => by
    simpa using List.filter_eq_nil_iff.1 hes ev hmem
  exact reaches_passive hturn (List.append_nil _).symm hpassive h

end Passive

section Protocol

variable {s : State} {r : Engine} {es : List Event}

/-- The wait holds until the engine is at rest (70_reset_and_hazards.md R189). -/
theorem reaches_wait_over {rest : List Event} (hev : s.events = .wait :: rest) (h : SettlesTo s.engine r) :
    ∃ t, Reaches s t ∧ t.events = rest ∧ t.engine = r := by
  obtain ⟨hrest, n, hn⟩ := h
  induction n generalizing s with
  | zero =>
    have heng : s.engine = r := hn
    exact ⟨_, reaches_of_step (step_wait_rest hev (heng ▸ hrest)) reaches_rfl, rfl, heng⟩
  | succ n ih =>
    by_cases hbusy : s.engine.seq = .rest
    · have heng : s.engine = r := eq_of_settlesTo ⟨hrest, n + 1, hn⟩ hbusy
      exact ⟨_, reaches_of_step (step_wait_rest hev hbusy) reaches_rfl, rfl, heng⟩
    · obtain ⟨t, hreach, htev, ht⟩ := ih (s := s.onEngine microEffect) hev hn
      exact ⟨t, reaches_of_step (step_wait_busy hev hbusy) hreach, htev, ht⟩

/-- The protocol's wait: from then on the engine is at rest. -/
theorem reaches_after_wait (hes : s.protocolEvents = .wait :: es) (h : SettlesTo s.engine r) :
    ∃ t, Reaches s t ∧ t.protocolEvents = es ∧ t.engine = r := by
  obtain ⟨u, rest, hreach, huev, htail, hu⟩ := reaches_next_event (settlesTo_keptByTurns r) hes h
  obtain ⟨t, hreach', htev, ht⟩ := reaches_wait_over huev hu
  exact ⟨t, reaches_trans hreach hreach', by rw [State.protocolEvents, htev, htail], ht⟩

/-- The protocol's command, which meets the engine at rest. -/
theorem reaches_after_command {w : Word} (hes : s.protocolEvents = cmdWrite w :: es) (hrest : s.engine.seq = .rest) :
    ∃ t, Reaches s t ∧ t.protocolEvents = es ∧ t.engine = commandEffect w s.engine := by
  obtain ⟨u, rest, hreach, huev, htail, hu⟩ := reaches_next_event (eq_keptByTurns hrest) hes rfl
  exact ⟨_, reaches_trans hreach (reaches_of_step (step_command huev) reaches_rfl), htail,
    congrArg (commandEffect w) hu⟩

/-- A wait and the command after it, as one. -/
theorem reaches_after_wait_command {w : Word} (hes : s.protocolEvents = .wait :: cmdWrite w :: es)
    (h : SettlesTo s.engine r) :
    ∃ t, Reaches s t ∧ t.protocolEvents = es ∧ t.engine = commandEffect w r := by
  obtain ⟨u, hreach, hues, hu⟩ := reaches_after_wait hes h
  obtain ⟨t, hreach', htes, ht⟩ := reaches_after_command hues (hu ▸ rest_of_settlesTo h)
  exact ⟨t, reaches_trans hreach hreach', htes, hu ▸ ht⟩

end Protocol

section ErrorFree

variable {e : Engine}

theorem errorFree_iff : e.errorFree = true ↔ ∀ b, e.err b = false := by
  constructor
  · intro h b
    simp only [Engine.errorFree, Bool.and_eq_true, Bool.not_eq_true'] at h
    obtain ⟨⟨hopc, hseq⟩, hbusy⟩ := h
    cases b with
    | opc => exact hopc
    | seq => exact hseq
    | busy => exact hbusy
  · intro h
    have hopc : e.errOpc = false := h .opc
    have hseq : e.errSeq = false := h .seq
    have hbusy : e.errBusy = false := h .busy
    rw [Engine.errorFree, hopc, hseq, hbusy]
    rfl

theorem iterate_microEffect_err (n : Nat) (b : ErrorBit) : (microEffect^[n] e).err b = e.err b := by
  induction n with
  | zero => rfl
  | succ n ih => rw [Function.iterate_succ_apply', microEffect_err, ih]

end ErrorFree

/-- The engine is at rest, or on its way there, with the bytes of `m` taken in and no error bit set. -/
def TakesIn (m : List Byte) (e : Engine) : Prop :=
  ∃ r, SettlesTo e r ∧ Absorbed m r ∧ ∀ b, r.err b = false

section Commands

variable {m : List Byte} {r : Engine} (habs : Absorbed m r) (herr : ∀ b, r.err b = false)

include habs herr

/-- WRITE: one byte more, at once or when its block is done. -/
theorem takesIn_write (x : Byte) : TakesIn (m ++ [x]) (commandEffect (writeWord x) r) := by
  obtain ⟨hphase, hrest⟩ := absorbed_ready habs
  have heff : commandEffect (writeWord x) r = writeEngine x r :=
    commandEffect_of_legal hrest (decodeCommand_writeWord x) ((legalIn_write_iff x _).2 hphase)
  rw [heff]
  by_cases hfull : m.length % 64 = 63
  · have habs' := writeEngine_block_absorbed (x := x) habs hfull
    obtain ⟨-, hrest'⟩ := absorbed_ready habs'
    refine ⟨_, ⟨hrest', 66, rfl⟩, habs', fun b => ?_⟩
    rw [iterate_microEffect_err, writeEngine_err, herr]
  · have habs' := writeEngine_absorbed (x := x) habs hfull
    obtain ⟨-, hrest'⟩ := absorbed_ready habs'
    refine ⟨_, settlesTo_of_rest hrest', habs', fun b => ?_⟩
    rw [writeEngine_err, herr]

/-- FINISH: the engine's own turns end in the digest. -/
theorem finish_settlesTo_digestDone :
    ∃ r', SettlesTo (commandEffect 0x00000003 r) r' ∧ DigestDone m r' ∧ ∀ b, r'.err b = false := by
  obtain ⟨hphase, hrest⟩ := absorbed_ready habs
  have hdec : decodeCommand 0x00000003 = .ok .finish := decodeCommand_eq_ok_iff.2 rfl
  have heff : commandEffect 0x00000003 r = finishEngine r :=
    commandEffect_of_legal hrest hdec ((legalIn_finish_iff _).2 hphase)
  have hdone := finishEngine_digestDone habs
  obtain ⟨-, hrest'⟩ := finished_of_digestDone hdone
  rw [heff]
  refine ⟨_, ⟨hrest', _, rfl⟩, hdone, fun b => ?_⟩
  rw [iterate_microEffect_err, finishEngine_err, herr]

end Commands

theorem takesIn_start {e : Engine} (hrest : e.seq = .rest) : TakesIn [] (commandEffect 0x00000001 e) := by
  have hdec : decodeCommand 0x00000001 = .ok .start := decodeCommand_eq_ok_iff.2 rfl
  have heff : commandEffect 0x00000001 e = startEngine e := commandEffect_of_legal hrest hdec rfl
  rw [heff]
  exact ⟨_, settlesTo_of_rest ((startEngine_seq e).trans hrest), startEngine_absorbed hrest, startEngine_err e⟩

/-- The host's events for the bytes still to send, and FINISH. -/
def hostBytes (m : List Byte) : List Event :=
  m.flatMap (fun x => [.wait, writeByte x]) ++ [.wait, cmdWrite 0x00000003, .wait]

theorem hostProtocol_eq (m : List Byte) : hostProtocol m = cmdWrite 0x00000001 :: hostBytes m := by
  simp [hostProtocol, hostBytes]

theorem hostBytes_cons (x : Byte) (m : List Byte) :
    hostBytes (x :: m) = .wait :: cmdWrite (writeWord x) :: hostBytes m := by
  simp [hostBytes, writeByte, writeWord]

/-- The end of the run, with the digest of `m` and no error bit set. -/
def DigestRun (m : List Byte) (s : State) : Prop :=
  ∃ t, Reaches s t ∧ t.events = [] ∧ DigestDone m t.engine ∧ ∀ b, t.engine.err b = false

theorem digestRun_of_reaches {m : List Byte} {s t : State} (hreach : Reaches s t) (h : DigestRun m t) :
    DigestRun m s := by
  obtain ⟨u, hreach', hu⟩ := h
  exact ⟨u, reaches_trans hreach hreach', hu⟩

/-- FINISH and the wait for its end, with every byte taken in. -/
theorem digestRun_finish {m : List Byte} {s : State} (hes : s.protocolEvents = hostBytes [])
    (h : TakesIn m s.engine) : DigestRun m s := by
  obtain ⟨r, hsettles, habs, herr⟩ := h
  obtain ⟨t, hreach, htes, ht⟩ := reaches_after_wait_command hes hsettles
  obtain ⟨r', hsettles', hdone, herr'⟩ := finish_settlesTo_digestDone habs herr
  obtain ⟨u, hreach', hues, hu⟩ := reaches_after_wait htes (ht ▸ hsettles')
  obtain ⟨v, hreach'', hvev, hv⟩ := reaches_end (eq_keptByTurns (rest_of_settlesTo hsettles')) hues hu
  exact ⟨v, reaches_trans hreach (reaches_trans hreach' hreach''), hvev, hv ▸ hdone, hv ▸ herr'⟩

/-- The bytes still to send, one after another, and FINISH. -/
theorem digestRun_bytes {m : List Byte} (taken : List Byte) {s : State} (hes : s.protocolEvents = hostBytes m)
    (h : TakesIn taken s.engine) : DigestRun (taken ++ m) s := by
  induction m generalizing taken s with
  | nil =>
    rw [List.append_nil]
    exact digestRun_finish hes h
  | cons x m ih =>
    obtain ⟨r, hsettles, habs, herr⟩ := h
    obtain ⟨t, hreach, htes, ht⟩ := reaches_after_wait_command (hes.trans (hostBytes_cons x m)) hsettles
    have hrun := ih (taken ++ [x]) htes (ht ▸ takesIn_write habs herr x)
    rw [List.append_assoc] at hrun
    exact digestRun_of_reaches hreach hrun

/-- Settles O57: START takes in the empty message, and the bytes follow. -/
theorem digestContractUnderEveryInterleaving : Obligations.DigestContractUnderEveryInterleaving := by
  intro m s hrest hes
  obtain ⟨t, hreach, htes, ht⟩ := reaches_after_command (hes.trans (hostProtocol_eq m)) hrest
  obtain ⟨u, ⟨n, hrun⟩, huev, hdone, herr⟩ :=
    digestRun_of_reaches hreach (digestRun_bytes [] htes (ht ▸ takesIn_start hrest))
  obtain ⟨hfinished, -⟩ := finished_of_digestDone hdone
  exact ⟨n, u, hrun, huev, hfinished, errorFree_iff.2 herr, hdone⟩

end Sys2Proof.Machine
end
